-- ==== Sys2Proof/Word.lean ====
section
/-! DEFINITION. The word and byte types of HUFFCORE (spec/00_scope.md R8: BUS_W = 32, SYM_BITS = 8) and their plainest
arithmetic. -/

namespace Sys2Proof

/-- A bus word, a command word, a count or a weight (R8: BUS_W, CNT_W and BITCNT_W are 32). -/
abbrev Word := BitVec 32

/-- A symbol or a byte of bitstream (R8: SYM_BITS = 8). -/
abbrev Byte := BitVec 8

/-- A node index (R8: IDX_W = 9). -/
abbrev NodeIdx := BitVec 9

/-- The node index that names no node (R8: NIL = 0x1FF). -/
def NIL : NodeIdx := 0x1FF#9

/-- One bit as a number, for the sums of R162. -/
def bitNat (b : Bool) : Nat := if b then 1 else 0

end Sys2Proof
end

