-- ==== Sys2Proof/Syntax.lean ====
section
/-! DEFINITION. The commands of HUFFCORE: one constructor of `Instr` per row of the opcode map (spec/30_encoding.md R125,
spec/opcode_table.json). -/

namespace Sys2Proof

/-- The 13 commands with their operands (R121-R125). -/
inductive Instr where
  /-- NOP, format N (R150). -/
  | nop
  /-- RESET, format N (R151). -/
  | reset
  /-- FREQ_CLR, format N (R160). -/
  | freqClr
  /-- FREQ_ADD sym, format S (R161). -/
  | freqAdd (sym : Byte)
  /-- FREQ_SET sym, format S; its count is PARG, not a field (R124, R162). -/
  | freqSet (sym : Byte)
  /-- BUILD, format N (R170). -/
  | build
  /-- GEN, format N (R190). -/
  | gen
  /-- ENC_START, format N (R210). -/
  | encStart
  /-- ENC_SYM sym, format S (R211). -/
  | encSym (sym : Byte)
  /-- ENC_FLUSH, format N (R212). -/
  | encFlush
  /-- DEC_START, format N (R230). -/
  | decStart
  /-- DEC_BYTE byte, nb, format B (R232). -/
  | decByte (byte : Byte) (nb : BitVec 4)
  /-- DEC_END, format N (R236). -/
  | decEnd
  deriving DecidableEq, Repr

/-- A command without its operands: a row of the opcode map (R125). -/
inductive Opcode where
  | nop | reset | freqClr | freqAdd | freqSet | build | gen | encStart | encSym | encFlush | decStart | decByte | decEnd
  deriving DecidableEq, Repr

/-- The three layouts of bits 23:0 (R121-R123). -/
inductive Format where
  /-- No operand. -/
  | n
  /-- One symbol in bits 7:0. -/
  | s
  /-- A byte in bits 7:0 and a bit count in bits 11:8. -/
  | b
  deriving DecidableEq, Repr

/-- Why a word is no command (R127). -/
inductive DecodeError where
  /-- Its OPC field is none of the 13. -/
  | unassignedOpc
  /-- Its OPC field is assigned and a bit its format reserves is 1. -/
  | reservedBits
  deriving DecidableEq, Repr

/-- The row of the opcode map a command belongs to. -/
def Instr.opcode : Instr → Opcode
  | .nop => .nop
  | .reset => .reset
  | .freqClr => .freqClr
  | .freqAdd _ => .freqAdd
  | .freqSet _ => .freqSet
  | .build => .build
  | .gen => .gen
  | .encStart => .encStart
  | .encSym _ => .encSym
  | .encFlush => .encFlush
  | .decStart => .decStart
  | .decByte _ _ => .decByte
  | .decEnd => .decEnd

/-- The format column of R125. -/
def Opcode.format : Opcode → Format
  | .freqAdd | .freqSet | .encSym => .s
  | .decByte => .b
  | .nop | .reset | .freqClr | .build | .gen | .encStart | .encFlush | .decStart | .decEnd => .n

end Sys2Proof
end

