-- ==== Sys2Proof/WellFormed.lean ====
section
/-! DEFINITION. Well-formed commands. Every operand of `Instr` has exactly the width of its field, so every command is
encodable; the one operand with values the spec does not accept is NB (spec/30_encoding.md R124, R128). -/

namespace Sys2Proof

/-- NB is "an unsigned count 0..15 of which 0..8 are accepted" (R124). -/
def nbAccepted (nb : BitVec 4) : Bool := decide (nb.toNat ≤ 8)

/-- The operands have values the command accepts (R124, R128: "every SYM and BYTE value 0..255 is legal"). A command that is not
well-formed still decodes and still runs: it ends in E_BADARG (R128). -/
def Instr.wf : Instr → Bool
  | .nop => true
  | .reset => true
  | .freqClr => true
  | .freqAdd _ => true
  | .freqSet _ => true
  | .build => true
  | .gen => true
  | .encStart => true
  | .encSym _ => true
  | .encFlush => true
  | .decStart => true
  | .decByte _ nb => nbAccepted nb
  | .decEnd => true

end Sys2Proof
end

