-- ==== Sys2Proof/Decode.lean ====
section
/-! DEFINITION. The opcode map of spec/30_encoding.md R125, the decoder of R126 over it (total on all 2^32 words, refusing by
name), and the encoder. HUFFCORE takes whole 32-bit words over its bus, so no byte stream is ever decoded (R98, R120). -/

namespace Sys2Proof

/-- One row of the opcode map: a word w is the row's command exactly when (w AND mask) = pattern. The table calls the
pattern `match`. -/
structure Row where
  opcode  : Opcode
  pattern : Word
  mask    : Word
  deriving DecidableEq, Repr

/-- The mask of a format: OPC and the bits the format reserves (R121-R123, R125). -/
def Format.mask : Format → Word
  | .n => 0xFFFFFFFF#32
  | .s => 0xFFFFFF00#32
  | .b => 0xFFFFF000#32

/-- The `match` column of R125. -/
def Opcode.pattern : Opcode → Word
  | .nop      => 0x00000000#32
  | .reset    => 0x01000000#32
  | .freqClr  => 0x10000000#32
  | .freqAdd  => 0x11000000#32
  | .freqSet  => 0x12000000#32
  | .build    => 0x20000000#32
  | .gen      => 0x30000000#32
  | .encStart => 0x40000000#32
  | .encSym   => 0x41000000#32
  | .encFlush => 0x42000000#32
  | .decStart => 0x50000000#32
  | .decByte  => 0x51000000#32
  | .decEnd   => 0x52000000#32

/-- A row of R125, its mask by the format. -/
def Opcode.row (o : Opcode) : Row := ⟨o, o.pattern, o.format.mask⟩

/-- The opcode map, in the order of R125. -/
def opcodeMap : List Row :=
  [Opcode.row .nop, Opcode.row .reset, Opcode.row .freqClr, Opcode.row .freqAdd, Opcode.row .freqSet, Opcode.row .build,
   Opcode.row .gen] ++
  [Opcode.row .encStart, Opcode.row .encSym, Opcode.row .encFlush, Opcode.row .decStart, Opcode.row .decByte,
   Opcode.row .decEnd]

/-- (w AND mask) = match (R125). -/
def Row.hits (r : Row) (w : Word) : Bool := (w &&& r.mask) == r.pattern

/-- OPC = word[31:24] (R120). -/
def opcOf (w : Word) : Byte := w.extractLsb' 24 8

/-- SYM = word[7:0] (R124). -/
def symOf (w : Word) : Byte := w.extractLsb' 0 8

/-- BYTE = word[7:0] (R124). -/
def byteOf (w : Word) : Byte := w.extractLsb' 0 8

/-- NB = word[11:8] (R124). -/
def nbOf (w : Word) : BitVec 4 := w.extractLsb' 8 4

/-- The command of a row with the operands of the word (R126). -/
def Opcode.withOperands (o : Opcode) (w : Word) : Instr :=
  match o with
  | .nop => .nop
  | .reset => .reset
  | .freqClr => .freqClr
  | .freqAdd => .freqAdd (symOf w)
  | .freqSet => .freqSet (symOf w)
  | .build => .build
  | .gen => .gen
  | .encStart => .encStart
  | .encSym => .encSym (symOf w)
  | .encFlush => .encFlush
  | .decStart => .decStart
  | .decByte => .decByte (byteOf w) (nbOf w)
  | .decEnd => .decEnd

/-- Which of the two reasons of R127 makes a word illegal that no row hits. -/
def illegalReason (w : Word) : DecodeError :=
  if opcodeMap.any (fun r => opcOf r.pattern == opcOf w) then .reservedBits else .unassignedOpc

/-- The decode procedure of R126; `error` is E_ILLEGAL (R127). -/
def decode (w : Word) : Except DecodeError Instr :=
  match opcodeMap.find? (fun r => r.hits w) with
  | some r => .ok (r.opcode.withOperands w)
  | none => .error (illegalReason w)

/-- The operand fields of a command, in place (R122, R123). -/
def Instr.operandBits : Instr → Word
  | .freqAdd sym => sym.setWidth 32
  | .freqSet sym => sym.setWidth 32
  | .encSym sym => sym.setWidth 32
  | .decByte byte nb => (nb.setWidth 32 <<< 8) ||| byte.setWidth 32
  | .nop | .reset | .freqClr | .build | .gen | .encStart | .encFlush | .decStart | .decEnd => 0#32

/-- The word of a command: the match of its row OR its operand fields (R125, R140). -/
def encode (i : Instr) : Word := i.opcode.pattern ||| i.operandBits

/-- The one word that is RESET at acceptance (R151, R261). -/
def resetWord : Word := 0x01000000#32

/-- The instruction the decoder reads from a row's word of `nbits` bits; a command is one word, so nothing lies above bit 31
(R120). -/
def decodeTableWord (nbits w : Nat) : Option Instr :=
  match decode (BitVec.ofNat 32 (w % 2 ^ nbits)) with
  | .ok i => some i
  | .error _ => none

end Sys2Proof
end

