-- ==== Sys2Proof/Config.lean ====
section
/-! DEFINITION. What an implementation of HUFFCORE fixes (spec/00_scope.md R8) and the free values: constants with no body, so
that nothing in Lean can see what they are. -/

namespace Sys2Proof

namespace Config

/-- NSYM_MAX, the number of symbols (R8). -/
abbrev nsymMax : Nat := 256

/-- NODE_MAX, the number of node table entries (R8). -/
abbrev nodeMax : Nat := 511

/-- TOTAL_MAX, the largest sum of counts (R8). -/
abbrev totalMax : Nat := 0xFFFFFFFF

/-- CODE_STORE, the code bits one code table entry holds (R8). -/
abbrev codeStore : Nat := 64

/-- The word the ID register reads (R1, R34). -/
def idWord : Word := 0x48554646#32

/-- FREE VALUE. The values of unspecified reads (spec/20_memory.md R97): the n-th bus read of a run that is unspecified draws
`freeWord n`. Log entry 4. -/
opaque freeWord : Nat → Word

/-- FREE VALUE. The 59 bits (LEAF, SYM, WEIGHT, LEFT, RIGHT) a rule would find at node index 511, which names no node
(R8: NIL; spec/42_tree_builder.md R178). No reachable state reads it. Log entry 11. -/
opaque absentNode : BitVec 59

/-- BASE, the platform address of offset 0: OPEN (spec/20_memory.md R102). -/
opaque base : Word

/-- The offset a platform address reaches (R92: offsets are relative to BASE). The port `addr` carries this offset
(spec/70_reset_and_hazards.md R304), so no step reads BASE. -/
def offsetOf (platformAddr : Word) : Word := platformAddr - base

/-- How many cycles a command takes beyond the first, by its opcode byte: OPEN (R320). -/
opaque latencyBeyondOne : Byte → Nat

/-- LAT_<mnemonic>: at least 1 core cycle, OPEN otherwise (R8, spec/70_reset_and_hazards.md R320). No step reads it: a
completion may happen at any point after acceptance (R320). Log entry 2. -/
def lat (opc : Byte) : Nat := latencyBeyondOne opc + 1

end Config

/-- The open parameters of one HUFFCORE that its rules read. They stand in State, no step writes them, and every statement
holds for all their values. Log entry 7. -/
structure Params where
  /-- OUT_LOG2 - 2, so that 2 ≤ OUT_LOG2 ≤ 16 holds of every value (spec/10_state.md R41). -/
  outLog2Less2 : Fin 15
  /-- RST_MIN - 1, so that RST_MIN ≥ 1 holds of every value (spec/70_reset_and_hazards.md R302). -/
  rstMinLess1 : Nat
  deriving DecidableEq, Repr

/-- OUT_LOG2 = log2(OUT_DEPTH), 2..16 (R41). -/
def Params.outLog2 (p : Params) : Nat := p.outLog2Less2.val + 2

/-- OUT_DEPTH, a power of two from 4 to 65536 (R8). -/
def Params.outDepth (p : Params) : Nat := 2 ^ p.outLog2

/-- RST_MIN, the shortest legal rst_n pulse in clk cycles (R302). -/
def Params.rstMin (p : Params) : Nat := p.rstMinLess1 + 1

/-- OUT_DEPTH = 65536, the default (R8); RST_MIN = 1, the model's own choice (log entry 7). -/
def Params.default : Params := ⟨14, 0⟩

end Sys2Proof
end

