-- ==== Sys2Proof/Machine/Table.lean ====
section
/-! DEFINITION. A table of n entries: a list that carries the proof of its length, so that two tables compare entry by entry. -/

namespace Sys2Proof.Machine

/-- n entries, index 0 first. -/
structure Table (α : Type) (n : Nat) where
  toList : List α
  length_toList : toList.length = n
  deriving DecidableEq, Repr

/-- The same value in every entry. -/
def Table.replicate {α : Type} (n : Nat) (a : α) : Table α n := ⟨List.replicate n a, List.length_replicate⟩

/-- The entry at an index in range. -/
def Table.get {α : Type} {n : Nat} (t : Table α n) (i : Nat) (h : i < n) : α :=
  t.toList[i]'(Nat.lt_of_lt_of_eq h t.length_toList.symm)

/-- The entry at an index, if there is one. -/
def Table.get? {α : Type} {n : Nat} (t : Table α n) (i : Nat) : Option α := t.toList[i]?

/-- One entry written; an index out of range writes nothing. -/
def Table.set {α : Type} {n : Nat} (t : Table α n) (i : Nat) (a : α) : Table α n :=
  ⟨t.toList.set i a, List.length_set.trans t.length_toList⟩

end Sys2Proof.Machine
end

