-- ==== Sys2Proof/Machine/State.lean ====
section
/-! DEFINITION. The state of HUFFCORE (spec/10_state.md), the reasons a step can stop, and the state after reset (R74). -/

namespace Sys2Proof.Machine

/-- STATUS.MODE (R37); the value 3 never occurs. -/
inductive Mode where
  | idle
  | enc
  | dec
  deriving DecidableEq, Repr

/-- The errors of spec/60_exceptions.md R263. -/
inductive ErrCode where
  | illegal
  | seq
  | busy
  | overflow
  | nocode
  | outfull
  | badcode
  | badarg
  | codelen
  deriving DecidableEq, Repr

/-- An entry of the node table (R51). -/
structure Node where
  leaf   : Bool
  sym    : Byte
  weight : Word
  left   : NodeIdx
  right  : NodeIdx
  deriving DecidableEq, Repr

/-- An entry of the code table (R54): the code is the LEN-bit string whose first bit is BITS[LEN-1]. -/
structure CodeEntry where
  valid : Bool
  len   : BitVec 8
  bits  : BitVec 64
  deriving DecidableEq, Repr

/-- The node table: 511 entries (R8, R51). -/
abbrev NodeTable := Table Node Config.nodeMax

/-- The code table: 256 entries (R54). -/
abbrev CodeTable := Table CodeEntry Config.nsymMax

/-- The frequency table: 256 counts (R50). -/
abbrev FreqTable := Table Word Config.nsymMax

/-- The output buffer, as (index, byte) pairs in one canonical form: indices strictly rising, no byte 0 listed. An unlisted
index holds 0 (log entry 17). -/
abbrev Memory := List Host.Cell

/-- A host access: one word read or one word write at a byte offset from BASE (spec/20_memory.md R92, R93). -/
inductive BusOp where
  | read (addr : Word)
  | write (addr data : Word)
  deriving DecidableEq, Repr

/-- What the bus gives in the present cycle (spec/70_reset_and_hazards.md R304: ack and rdata, "valid in the cycle ack = 1").
Log entry 15. -/
inductive BusResp where
  /-- ack = 0. -/
  | none
  /-- ack = 1 for a write; rdata carries nothing. -/
  | written
  /-- ack = 1 for a read; rdata is the word. -/
  | data (rdata : Word)
  deriving DecidableEq, Repr

/-- What happens next, as the outside world and the schedule decide it (log entries 1 and 8). -/
inductive Input where
  /-- The host makes an access (R4, R96). -/
  | bus (op : BusOp)
  /-- The core is given its turn; it completes the command in flight, if there is one (R262). -/
  | core
  /-- A rising clk edge at which no agent acts. -/
  | clk
  /-- The pin rst_n goes low (R300). -/
  | rstLow
  /-- The pin rst_n goes high. -/
  | rstHigh
  deriving DecidableEq, Repr

/-- Everything the spec gives the machine, and the model's own fields at the end (INVENTORY.md, State). -/
structure State where
  /-- ARG0 (R36). -/
  arg0       : Word
  /-- STATUS.BUSY (R37). -/
  busy       : Bool
  /-- STATUS.DONE (R37). -/
  done       : Bool
  /-- STATUS.ERR (R37). -/
  err        : Bool
  /-- STATUS.TREE_VALID (R37). -/
  treeValid  : Bool
  /-- STATUS.CODE_VALID (R37). -/
  codeValid  : Bool
  /-- STATUS.MODE (R37). -/
  mode       : Mode
  /-- STATUS.DEC_PARTIAL (R37). -/
  decPartial : Bool
  /-- ERRCODE (R38): none is 0. -/
  errcode    : Option ErrCode
  /-- ERRCMD (R39). -/
  errcmd     : Word
  /-- CTRL bit 0, IE_DONE (R40). -/
  ieDone     : Bool
  /-- CTRL bit 1, IE_ERR (R40). -/
  ieErr      : Bool
  /-- NSYM (R42). -/
  nsym       : BitVec 9
  /-- TOTAL (R42). -/
  total      : Word
  /-- ROOT (R43). -/
  root       : NodeIdx
  /-- NNODES (R43). -/
  nnodes     : BitVec 10
  /-- MAXLEN (R44). -/
  maxlen     : BitVec 8
  /-- OUTCNT (R45). -/
  outcnt     : BitVec 17
  /-- ENC_BITCNT (R46). -/
  encBitcnt  : Word
  /-- PADBITS (R46). -/
  padbits    : BitVec 3
  /-- DEC_BITCNT (R47). -/
  decBitcnt  : Word
  /-- CURSOR (R47). -/
  cursor     : NodeIdx
  /-- FREQ (R50). -/
  freq       : FreqTable
  /-- NODE (R51). -/
  node       : NodeTable
  /-- CODE (R54). -/
  code       : CodeTable
  /-- OUT (R56). -/
  out        : Memory
  /-- PEND (R60). -/
  pend       : Word
  /-- PARG (R60). -/
  parg       : Word
  /-- ACC (R61). -/
  acc        : BitVec 7
  /-- ACC_N (R61). -/
  accN       : BitVec 3
  /-- The open parameters of the instance (R8, R302); no step writes them. -/
  params     : Params
  /-- The level of the pin rst_n; false is low, reset (R300, R304). -/
  rstN       : Bool
  /-- The clk edges since rst_n went low (R302). -/
  rstCycles  : Nat
  /-- What the bus answers in this cycle (R304). -/
  resp       : BusResp
  /-- The inputs still to come, first one first. -/
  inputs     : List Input
  /-- How many bus reads have been made: the index of the next free value (R97). -/
  draws      : Nat
  deriving DecidableEq, Repr

/-- Why the machine stops. The errors of R263 are no faults of the model: a command that raises one takes a next state. -/
inductive Fault where
  /-- Raised by `releaseReset` when rst_n goes high after fewer than RST_MIN clk edges: "rst_n must be held low for at least
  RST_MIN cycles" (R302), and the spec gives a shorter pulse no effect. Safe: the model stops where hardware goes on. Log
  entry 8. -/
  | resetPulseTooShort
  deriving DecidableEq, Repr

/-- Why the model gives no meaning. -/
inductive Refusal where
  /-- Raised by an arm of `exec` for a command that has no meaning yet. Safe: nothing is claimed of it. -/
  | notModelled (mnemonic : String)
  /-- Raised by `inputStep` for a bus access while rst_n is low: "the model gives such an access no meaning" (R302,
  spec/93_implementation_defined.md U10). Safe. Log entry 9. -/
  | busAccessInReset
  deriving DecidableEq, Repr

/-- A node table entry nothing has written (log entry 5). -/
def Node.blank : Node := ⟨false, 0#8, 0#32, 0#9, 0#9⟩

/-- An entry with no code (R54: VALID = 0, LEN = 0, BITS = 0). -/
def CodeEntry.blank : CodeEntry := ⟨false, 0#8, 0#64⟩

/-- The machine right after reset (R74, with R33 and R37). NODE, CODE and OUT are unspecified there: their values, and those of
PEND, PARG and the model's own fields, are the model's choice (log entries 1, 4 to 8, 15, 17). -/
def State.reset : State where
  arg0       := 0#32
  busy       := false
  done       := false
  err        := false
  treeValid  := false
  codeValid  := false
  mode       := .idle
  decPartial := false
  errcode    := none
  errcmd     := 0#32
  ieDone     := false
  ieErr      := false
  nsym       := 0#9
  total      := 0#32
  root       := NIL
  nnodes     := 0#10
  maxlen     := 0#8
  outcnt     := 0#17
  encBitcnt  := 0#32
  padbits    := 0#3
  decBitcnt  := 0#32
  cursor     := NIL
  freq       := Table.replicate 256 0#32
  node       := Table.replicate 511 Node.blank
  code       := Table.replicate 256 CodeEntry.blank
  out        := []
  pend       := 0#32
  parg       := 0#32
  acc        := 0#7
  accN       := 0#3
  params     := Params.default
  rstN       := true
  rstCycles  := 0
  resp       := .none
  inputs     := []
  draws      := 0

end Sys2Proof.Machine
end

