-- ==== Sys2Proof/Machine/Ops.lean ====
section
/-! DEFINITION. The named operations over the tables and registers, the recording of an error (spec/60_exceptions.md R264), the
completion of a command (R262) and ResetAll (spec/70_reset_and_hazards.md R301). -/

namespace Sys2Proof.Machine

/-! ## The output buffer as memory (R56) -/

/-- The byte at an index; an unlisted index holds 0 (log entry 17). -/
def Memory.read : Memory → Nat → Byte
  | [], _ => 0#8
  | (a, b) :: m, j => if a = j then b else Memory.read m j

/-- Put a nonzero byte in front, or nothing for 0, so that no byte 0 is ever listed. -/
def Memory.cons (j : Nat) (b : Byte) (m : Memory) : Memory := if b = 0#8 then m else (j, b) :: m

/-- Store one byte, keeping the canonical form. -/
def Memory.write : Memory → Nat → Byte → Memory
  | [], j, b => Memory.cons j b []
  | (a, c) :: m, j, b =>
    if j < a then Memory.cons j b ((a, c) :: m)
    else if j = a then Memory.cons j b m
    else (a, c) :: Memory.write m j b

/-- The canonical form above an index: indices rise strictly from `lo` on and no byte 0 is listed. -/
def Memory.wfFrom : Nat → Memory → Bool
  | _, [] => true
  | lo, (a, b) :: m => decide (lo ≤ a) && decide (b ≠ 0#8) && Memory.wfFrom (a + 1) m

/-- The canonical form. -/
def Memory.wf (m : Memory) : Bool := Memory.wfFrom 0 m

/-- No index at or past n is listed. -/
def Memory.below (n : Nat) (m : Memory) : Bool := m.all (fun c => decide (c.1 < n))

/-- OUT_DEPTH of the instance (R8). -/
def State.outDepth (s : State) : Nat := s.params.outDepth

/-- OUT[j] (R56). -/
def State.outByte (s : State) (j : Nat) : Byte := Memory.read s.out j

/-- `OUT[OUTCNT] <- b; OUTCNT <- OUTCNT + 1` (R213, R232). -/
def State.emit (s : State) (b : Byte) : State :=
  { s with out := Memory.write s.out s.outcnt.toNat b, outcnt := s.outcnt + 1#17 }

/-- `emit` for each byte of a list, in order (R232). -/
def State.emitAll (s : State) : List Byte → State
  | [] => s
  | b :: bs => (s.emit b).emitAll bs

/-! ## The tables -/

/-- FREQ[sym] (R50). -/
def State.freqAt (s : State) (sym : Byte) : Word := s.freq.get sym.toNat sym.isLt

/-- CODE[sym] (R54). -/
def State.codeAt (s : State) (sym : Byte) : CodeEntry := s.code.get sym.toNat sym.isLt

/-- The five fields of a node out of 59 bits, for the one index that has no entry (log entry 11). -/
def Node.ofBits (v : BitVec 59) : Node :=
  ⟨v.getLsbD 58, v.extractLsb' 50 8, v.extractLsb' 18 32, v.extractLsb' 9 9, v.extractLsb' 0 9⟩

/-- An entry of a node table; index 511 has none, and what a rule would find there is a free value (R8, R178, log entry 11). -/
def nodeAt (t : NodeTable) (i : NodeIdx) : Node := (t.get? i.toNat).getD (Node.ofBits Config.absentNode)

/-- NODE[i] (R51). -/
def State.nodeAt (s : State) (i : NodeIdx) : Node := Machine.nodeAt s.node i

/-- Write entry i of the code table being built (R190). -/
def setCode (c : CodeTable) (sym : Byte) (e : CodeEntry) : CodeTable := c.set sym.toNat e

/-! ## Errors and completion -/

/-- RecordError(e, w): the first error since reset is kept, and ERR is set (R264). -/
def State.recordError (s : State) (e : ErrCode) (w : Word) : State :=
  { s with
    errcode := if s.errcode = none then some e else s.errcode
    errcmd  := if s.errcode = none then w else s.errcmd
    err     := true }

/-- The end of a core step: `BUSY <- 0; DONE <- 1` (R262). -/
def State.complete (s : State) : State := { s with busy := false, done := true }

/-- TAKING AN ERROR at completion: none of the command's writes land, the error is recorded with the word in PEND, and the
command completes (R262, R269). There is no handler, no saved pc and no return: only ResetAll leaves FAULT (R266, R272). -/
def State.raise (s : State) (e : ErrCode) : State := (s.recordError e s.pend).complete

/-- The result of a command body run on a copy of the state: its writes land together, or its error is taken (R13, R262). -/
def finish (s : State) (body : Except ErrCode State) : Host.Outcome State Fault Refusal :=
  match body with
  | .ok s1 => .next s1.complete
  | .error e => .next (s.raise e)

/-- `require(c)`: E_SEQ when the condition is false (R265). -/
def require (c : Bool) (body : Except ErrCode State) : Except ErrCode State := if c then body else .error .seq

/-! ## Reset and acceptance -/

/-- ResetAll: every register and FREQ to its reset value, any command in flight abandoned, NODE, CODE and OUT unchanged
(R301, R74). The model's own fields stay: they are no state of the core. -/
def State.resetAll (s : State) : State :=
  { State.reset with
    node      := s.node
    code      := s.code
    out       := s.out
    params    := s.params
    rstN      := s.rstN
    rstCycles := s.rstCycles
    resp      := s.resp
    inputs    := s.inputs
    draws     := s.draws }

/-- `PEND <- w; PARG <- ARG0; BUSY <- 1; DONE <- 0` (R261 case 4). -/
def State.latch (s : State) (w : Word) : State :=
  { s with pend := w, parg := s.arg0, busy := true, done := false }

/-- Acceptance: the four cases of R261 in their order. -/
def State.accept (s : State) (w : Word) : State :=
  if w = resetWord then s.resetAll
  else if s.err then s
  else if s.busy then s.recordError .busy w
  else s.latch w

end Sys2Proof.Machine
end

