-- ==== Sys2Proof/Machine/Flags.lean ====
section
/-! DEFINITION. The STATUS flags and what is computed from them (spec/10_state.md R37, R38, R40, R48): the register words, the
interrupt output (spec/60_exceptions.md R270), and the preconditions of the commands (R265). HUFFCORE has no condition codes
(R48). -/

namespace Sys2Proof.Machine

/-- MODE as its two bits (R37). -/
def Mode.code : Mode → BitVec 2
  | .idle => 0#2
  | .enc => 1#2
  | .dec => 2#2

/-- The number of an error (R263). -/
def ErrCode.code : ErrCode → BitVec 4
  | .illegal => 1#4
  | .seq => 2#4
  | .busy => 3#4
  | .overflow => 4#4
  | .nocode => 5#4
  | .outfull => 6#4
  | .badcode => 7#4
  | .badarg => 8#4
  | .codelen => 9#4

/-- STATUS: DEC_PARTIAL in bit 7, MODE in 6:5, CODE_VALID, TREE_VALID, ERR, DONE, BUSY in bit 0; bits 31:8 read 0 (R37). -/
def State.statusWord (s : State) : Word :=
  (BitVec.ofBool s.decPartial ++ s.mode.code ++ BitVec.ofBool s.codeValid ++ BitVec.ofBool s.treeValid ++
    BitVec.ofBool s.err ++ BitVec.ofBool s.done ++ BitVec.ofBool s.busy : BitVec 8).setWidth 32

/-- ERRCODE: 0 for no error (R38). -/
def State.errcodeWord (s : State) : Word :=
  match s.errcode with
  | none => 0#32
  | some e => e.code.setWidth 32

/-- CTRL: IE_ERR in bit 1, IE_DONE in bit 0 (R40). -/
def State.ctrlWord (s : State) : Word := (BitVec.ofBool s.ieErr ++ BitVec.ofBool s.ieDone : BitVec 2).setWidth 32

/-- PARAMS: OUT_LOG2 in 4:0, SYM_BITS = 8 in 15:8, CODE_STORE = 64 in 23:16 (R41). -/
def State.paramsWord (s : State) : Word :=
  (0#8 ++ 64#8 ++ 8#8 ++ BitVec.ofNat 8 s.params.outLog2 : BitVec 32)

/-- IRQ = (DONE and IE_DONE) or (ERR and IE_ERR): a function of the state, not a stored bit (R270). -/
def State.irq (s : State) : Bool := (s.done && s.ieDone) || (s.err && s.ieErr)

/-- What each command requires (the table of R265). -/
def precondition (i : Instr) (s : State) : Bool :=
  match i with
  | .nop => true
  | .reset => true
  | .freqClr => !s.treeValid
  | .freqAdd _ => !s.treeValid
  | .freqSet _ => !s.treeValid
  | .build => !s.treeValid
  | .gen => s.treeValid && !s.codeValid
  | .encStart => s.codeValid && decide (s.mode = .idle)
  | .encSym _ => decide (s.mode = .enc)
  | .encFlush => decide (s.mode = .enc)
  | .decStart => s.treeValid && decide (s.mode = .idle)
  | .decByte _ _ => decide (s.mode = .dec)
  | .decEnd => decide (s.mode = .dec)

end Sys2Proof.Machine
end

