-- ==== Sys2Proof/Machine/Bus.lean ====
section
/-! DEFINITION. Host bus accesses (spec/20_memory.md): the register map and the windows, what each read returns, and what each
write does. Addresses are byte offsets from BASE (R92). -/

namespace Sys2Proof.Machine

/-- Address bits 1:0 are ignored (R93, R99). -/
def alignAddr (addr : Word) : Nat := addr.toNat / 4 * 4

/-! ## Reads -/

/-- The registers a read returns exactly at any time, by offset; every reserved offset below 0x400 reads 0 (R33, R34-R41,
R97). -/
def State.readControl (s : State) (off : Nat) : Word :=
  match off with
  | 0x000 => Config.idWord
  | 0x008 => s.arg0
  | 0x00C => s.statusWord
  | 0x010 => s.errcodeWord
  | 0x014 => s.errcmd
  | 0x018 => s.ctrlWord
  | 0x01C => s.paramsWord
  | _ => 0#32

/-- The result registers 0x020 to 0x044, by offset (R33, R42-R47). -/
def State.readResult (s : State) (off : Nat) : Word :=
  match off with
  | 0x020 => s.nsym.setWidth 32
  | 0x024 => s.total
  | 0x028 => s.root.setWidth 32
  | 0x02C => s.nnodes.setWidth 32
  | 0x030 => s.maxlen.setWidth 32
  | 0x034 => s.outcnt.setWidth 32
  | 0x038 => s.encBitcnt
  | 0x03C => s.padbits.setWidth 32
  | 0x040 => s.decBitcnt
  | 0x044 => s.cursor.setWidth 32
  | _ => 0#32

/-- A word of a node entry, by its offset in the entry (R92). -/
def nodeWord (n : Node) (k : Nat) : Word :=
  match k with
  | 0 => n.weight
  | 4 => (BitVec.ofBool n.leaf ++ 0#23 ++ n.sym : BitVec 32)
  | 8 => n.left.setWidth 32
  | 12 => n.right.setWidth 32
  | _ => 0#32

/-- A word of a code entry, by its offset in the entry (R92). -/
def codeWord (c : CodeEntry) (k : Nat) : Word :=
  match k with
  | 0 => (BitVec.ofBool c.valid ++ 0#23 ++ c.len : BitVec 32)
  | 4 => c.bits.extractLsb' 0 32
  | 8 => c.bits.extractLsb' 32 32
  | _ => 0#32

/-- NODE window, entry i: unspecified while TREE_VALID = 0 or i ≥ NNODES (R97 (b)). -/
def State.readNode (s : State) (i k : Nat) (free : Word) : Word :=
  if s.treeValid = false ∨ s.nnodes.toNat ≤ i then free else nodeWord (s.nodeAt (BitVec.ofNat 9 i)) k

/-- CODE window, entry sym: unspecified while CODE_VALID = 0 (R97 (c), log entry 12). -/
def State.readCode (s : State) (sym k : Nat) (free : Word) : Word :=
  if s.codeValid = false then free else codeWord (s.codeAt (BitVec.ofNat 8 sym)) k

/-- Lane j mod 4 of an OUT word: exact for j < OUTCNT, the lane of the free word otherwise (R97 (d)). -/
def State.outLane (s : State) (j lane : Nat) (free : Word) : Byte :=
  if j < s.outcnt.toNat then s.outByte j else free.extractLsb' (8 * lane) 8

/-- OUT window, word k: OUT[4k] in bits 7:0 (R92, R98). -/
def State.readOut (s : State) (k : Nat) (free : Word) : Word :=
  (s.outLane (4 * k + 3) 3 free ++ s.outLane (4 * k + 2) 2 free ++ s.outLane (4 * k + 1) 1 free ++
    s.outLane (4 * k) 0 free : BitVec 32)

/-- The regions of the address map (R92). -/
inductive Region where
  | control
  | result
  | freq
  | node
  | code
  | out
  | reserved
  deriving DecidableEq, Repr

/-- The region of a word-aligned offset (R33, R92). -/
def State.regionOf (s : State) (off : Nat) : Region :=
  if off < 0x020 then .control
  else if off < 0x048 then .result
  else if off < 0x400 then .reserved
  else if off < 0x800 then .freq
  else if off < 0x1000 then .reserved
  else if off < 0x2FF0 then .node
  else if off < 0x4000 then .reserved
  else if off < 0x5000 then .code
  else if off < 0x10000 then .reserved
  else if off < 0x10000 + s.outDepth then .out
  else .reserved

/-- The word a read of a word-aligned offset returns, given the free value the read may draw: exact, or unspecified as R97
says. -/
def State.readOffset (s : State) (off : Nat) (free : Word) : Word :=
  match s.regionOf off with
  | .control => s.readControl off
  | .reserved => 0#32
  | .result => if s.busy then free else s.readResult off
  | .freq => if s.busy then free else s.freqAt (BitVec.ofNat 8 ((off - 0x400) / 4))
  | .node => if s.busy then free else s.readNode ((off - 0x1000) / 16) (off % 16) free
  | .code => if s.busy then free else s.readCode ((off - 0x4000) / 16) (off % 16) free
  | .out => if s.busy then free else s.readOut ((off - 0x10000) / 4) free

/-- MemRead(addr, 4) (R93), the free value the next draw. -/
def State.memRead (s : State) (addr : Word) : Word := s.readOffset (alignAddr addr) (Config.freeWord s.draws)

/-! ## Writes -/

/-- A write of 1 to STATUS bit 1 clears DONE; every other bit is ignored (R37). -/
def State.writeStatus (s : State) (v : Word) : State := { s with done := s.done && !v.getLsbD 1 }

/-- CTRL <- v, bits 1:0 only (R40). -/
def State.writeCtrl (s : State) (v : Word) : State := { s with ieDone := v.getLsbD 0, ieErr := v.getLsbD 1 }

/-- MemWrite(addr, 4, v): an effect at CMD, ARG0, STATUS and CTRL only; any other write is ignored (R94). -/
def State.memWrite (s : State) (addr v : Word) : State :=
  match alignAddr addr with
  | 0x004 => s.accept v
  | 0x008 => { s with arg0 := v }
  | 0x00C => s.writeStatus v
  | 0x018 => s.writeCtrl v
  | _ => s

/-- One bus transaction: its effect on the core, and the answer on the bus (R95, R96, R304). A read changes only the model's own
`resp` and `draws`. -/
def State.busAccess (s : State) (op : BusOp) : State :=
  match op with
  | .read addr => { s with resp := .data (s.memRead addr), draws := s.draws + 1 }
  | .write addr v => { s.memWrite addr v with resp := .written }

/-- The port ack (R304). -/
def State.ack (s : State) : Bool := decide (s.resp ≠ .none)

/-- The port rdata, in a cycle in which it is valid (R304). -/
def State.rdata (s : State) : Option Word :=
  match s.resp with
  | .data v => some v
  | .none => none
  | .written => none

end Sys2Proof.Machine
end

