-- ==== Sys2Proof/Machine/CodeGenerator.lean ====
section
/-! DEFINITION. The code-table generator (spec/43_code_generator.md). -/

namespace Sys2Proof.Machine

/-- walk(i, L, v) of R190, with the table and the longest length so far. The first argument bounds the depth: a walk that gets
below depth CODE_STORE + 1 has left every leaf of depth at most 64 behind, so it answers E_CODELEN (R190, R194, log entry
10). -/
def walk (t : NodeTable) : Nat → NodeIdx → Nat → Nat → CodeTable × Nat → Except ErrCode (CodeTable × Nat)
  | 0, _, _, _, _ => .error .codelen
  | fuel + 1, i, len, v, (c, m) =>
    if (nodeAt t i).leaf then
      if Config.codeStore < len then .error .codelen
      else .ok (setCode c (nodeAt t i).sym ⟨true, BitVec.ofNat 8 len, BitVec.ofNat 64 v⟩, max m len)
    else
      match walk t fuel (nodeAt t i).left (len + 1) (2 * v) (c, m) with
      | .error e => .error e
      | .ok cm => walk t fuel (nodeAt t i).right (len + 1) (2 * v + 1) cm

/-- Depths 0 to CODE_STORE + 1. -/
def walkFuel : Nat := Config.codeStore + 2

/-- A fresh table: 256 entries with VALID = 0 (R190, R198). -/
def freshCodes : CodeTable := Table.replicate 256 CodeEntry.blank

/-- The new code table and MAXLEN: nothing for the empty tree (R193), the code "0" for a root that is a leaf (R192), the walk
otherwise (R191). -/
def genCodes (s : State) : Except ErrCode (CodeTable × Nat) :=
  if s.root = NIL then .ok (freshCodes, 0)
  else if (s.nodeAt s.root).leaf then .ok (setCode freshCodes (s.nodeAt s.root).sym ⟨true, 1#8, 0#64⟩, 1)
  else walk s.node walkFuel s.root 0 0 (freshCodes, 0)

/-- The body of GEN after its precondition (R190). -/
def genBody (s : State) : Except ErrCode State :=
  match genCodes s with
  | .error e => .error e
  | .ok (c, m) => .ok { s with code := c, maxlen := BitVec.ofNat 8 m, codeValid := true }

/-- GEN (R190). -/
def execGen (s : State) : Host.Outcome State Fault Refusal :=
  finish s (require (precondition .gen s) (genBody s))

end Sys2Proof.Machine
end

