-- ==== Sys2Proof/Machine/Control.lean ====
section
/-! DEFINITION. The control commands (spec/40_control.md). -/

namespace Sys2Proof.Machine

/-- NOP: the body is empty; completion sets DONE (R150). -/
def execNop (s : State) : Host.Outcome State Fault Refusal :=
  finish s (require (precondition .nop s) (.ok s))

/-- RESET: ResetAll, with no completion: "BUSY stays 0 and DONE reads 0 afterwards" (R151). It is performed at acceptance
(`State.accept`, R261 case 1) and is never latched; log entry 13 says what a core step with this word in PEND does. -/
def execReset (s : State) : Host.Outcome State Fault Refusal := .next s.resetAll

end Sys2Proof.Machine
end

