-- ==== Sys2Proof/Machine/Operands.lean ====
section
/-! DEFINITION. The operands a command body sees (spec/30_encoding.md R124, spec/40_control.md): SYM, BYTE and NB are fields of
the decoded command, the count of FREQ_SET is PARG, and bits are taken one at a time in the orders of R90 and R191. -/

namespace Sys2Proof.Machine

/-- n = PARG, the value ARG0 held at acceptance (R124, R162). -/
def State.countOperand (s : State) : Word := s.parg

/-- NB > 8 (R232). -/
def nbTooLarge (nb : BitVec 4) : Bool := decide (8 < nb.toNat)

/-- BYTE[7 - j]: the j-th bit of a bitstream byte, from bit 7 down (R90, R232). -/
def streamBit (byte : Byte) (j : Nat) : Bool := byte.getLsbD (7 - j)

/-- c.BITS[j] (R54, R211). -/
def codeBit (c : CodeEntry) (j : Nat) : Bool := c.bits.getLsbD j

/-- The code of an entry as a bit string, first code bit first: BITS[LEN-1], …, BITS[0] (R11, R54). -/
def codeString (c : CodeEntry) : List Bool := ((List.range c.len.toNat).reverse).map (codeBit c)

end Sys2Proof.Machine
end

