-- ==== Sys2Proof/Machine/Decoder.lean ====
section
/-! DEFINITION. The bitstream decoder (spec/45_decoder.md). -/

namespace Sys2Proof.Machine

/-- The body of DEC_START after its precondition (R230). -/
def decStartBody (s : State) : Except ErrCode State :=
  .ok { s with mode := .dec, decPartial := false, outcnt := 0#17, decBitcnt := 0#32, cursor := s.root }

/-- DEC_START (R230). -/
def execDecStart (s : State) : Host.Outcome State Fault Refusal :=
  finish s (require (precondition .decStart s) (decStartBody s))

/-- The child a bit leads to: LEFT on 0, RIGHT on 1 (R231). -/
def childOf (n : Node) (b : Bool) : NodeIdx := if b then n.right else n.left

/-- Step(cur, b) (R231): the next cursor and the symbol yielded, if any. -/
def treeStep (s : State) (cur : NodeIdx) (b : Bool) : Except ErrCode (NodeIdx × Option Byte) :=
  if s.root = NIL then .error .badcode
  else if (s.nodeAt cur).leaf then
    if b then .error .badcode else .ok (s.root, some (s.nodeAt s.root).sym)
  else if (s.nodeAt (childOf (s.nodeAt cur) b)).leaf then
    .ok (s.root, some (s.nodeAt (childOf (s.nodeAt cur) b)).sym)
  else .ok (childOf (s.nodeAt cur) b, none)

/-- Step for each bit of a bit string, first bit first: the last cursor and the symbols yielded, in order (R232). -/
def walkBits (s : State) : NodeIdx → List Bool → Except ErrCode (NodeIdx × List Byte)
  | cur, [] => .ok (cur, [])
  | cur, b :: bs =>
    match treeStep s cur b with
    | .error e => .error e
    | .ok (cur1, e) =>
      match walkBits s cur1 bs with
      | .error e1 => .error e1
      | .ok (cur2, es) => .ok (cur2, e.toList ++ es)

/-- The first nb bits of a byte, from bit 7 down (R90, R232). -/
def streamBits (byte : Byte) (nb : Nat) : List Bool := (List.range nb).map (streamBit byte)

/-- The body of DEC_BYTE after its precondition (R232). The whole walk is checked before the room in OUT (R267). -/
def decByteBody (byte : Byte) (nb : BitVec 4) (s : State) : Except ErrCode State :=
  if nbTooLarge nb then .error .badarg
  else
    match walkBits s s.cursor (streamBits byte nb.toNat) with
    | .error e => .error e
    | .ok (cur, es) =>
      if s.outDepth < s.outcnt.toNat + es.length then .error .outfull
      else .ok { s.emitAll es with cursor := cur, decBitcnt := s.decBitcnt + nb.setWidth 32 }

/-- DEC_BYTE byte, nb (R232). -/
def execDecByte (byte : Byte) (nb : BitVec 4) (s : State) : Host.Outcome State Fault Refusal :=
  finish s (require (precondition (.decByte byte nb) s) (decByteBody byte nb s))

/-- The body of DEC_END after its precondition (R236). -/
def decEndBody (s : State) : Except ErrCode State :=
  .ok { s with decPartial := decide (s.cursor ≠ s.root), mode := .idle }

/-- DEC_END (R236). -/
def execDecEnd (s : State) : Host.Outcome State Fault Refusal :=
  finish s (require (precondition .decEnd s) (decEndBody s))

end Sys2Proof.Machine
end

