-- ==== Sys2Proof/Machine/Encoder.lean ====
section
/-! DEFINITION. The bitstream encoder (spec/44_encoder.md). -/

namespace Sys2Proof.Machine

/-- The body of ENC_START after its precondition (R210). -/
def encStartBody (s : State) : Except ErrCode State :=
  .ok { s with mode := .enc, outcnt := 0#17, encBitcnt := 0#32, padbits := 0#3, acc := 0#7, accN := 0#3 }

/-- ENC_START (R210). -/
def execEncStart (s : State) : Host.Outcome State Fault Refusal :=
  finish s (require (precondition .encStart s) (encStartBody s))

/-- {ACC[ACC_N-1:0], b}: the pending bits with one more behind them, in ACC's 7 bits (R213). -/
def accPush (acc : BitVec 7) (accN : BitVec 3) (b : Bool) : BitVec 7 :=
  BitVec.ofNat 7 (2 * (acc.toNat % 2 ^ accN.toNat) + bitNat b)

/-- PushBit(b) (R213): the eighth bit completes a byte, its earliest bit in bit 7. -/
def State.pushBit (s : State) (b : Bool) : State :=
  if s.accN = 7#3 then { s.emit (s.acc ++ BitVec.ofBool b : BitVec 8) with acc := 0#7, accN := 0#3 }
  else { s with acc := accPush s.acc s.accN b, accN := s.accN + 1#3 }

/-- PushBit for each bit of a bit string, first bit first (R211). -/
def State.pushBits (s : State) : List Bool → State
  | [] => s
  | b :: bs => (s.pushBit b).pushBits bs

/-- The bytes a code completes: (ACC_N + LEN) div 8 (R211). -/
def completedBytes (s : State) (c : CodeEntry) : Nat := (s.accN.toNat + c.len.toNat) / 8

/-- The body of ENC_SYM after its precondition (R211). -/
def encSymBody (sym : Byte) (s : State) : Except ErrCode State :=
  let c := s.codeAt sym
  if c.valid = false then .error .nocode
  else if s.outDepth < s.outcnt.toNat + completedBytes s c then .error .outfull
  else .ok { s.pushBits (codeString c) with encBitcnt := s.encBitcnt + c.len.setWidth 32 }

/-- ENC_SYM sym (R211). -/
def execEncSym (sym : Byte) (s : State) : Host.Outcome State Fault Refusal :=
  finish s (require (precondition (.encSym sym) s) (encSymBody sym s))

/-- (ACC * 2^(8 - ACC_N))[7:0]: the pending bits at the top, zeros below (R212). -/
def flushByte (acc : BitVec 7) (accN : BitVec 3) : Byte := BitVec.ofNat 8 (acc.toNat * 2 ^ (8 - accN.toNat))

/-- The body of ENC_FLUSH after its precondition (R212). -/
def encFlushBody (s : State) : Except ErrCode State :=
  if s.accN = 0#3 then .ok { s with padbits := 0#3, acc := 0#7, accN := 0#3, mode := .idle }
  else if s.outDepth < s.outcnt.toNat + 1 then .error .outfull
  else .ok { s.emit (flushByte s.acc s.accN) with
    padbits := BitVec.ofNat 3 (8 - s.accN.toNat)
    acc     := 0#7
    accN    := 0#3
    mode    := .idle }

/-- ENC_FLUSH (R212). -/
def execEncFlush (s : State) : Host.Outcome State Fault Refusal :=
  finish s (require (precondition .encFlush s) (encFlushBody s))

end Sys2Proof.Machine
end

