-- ==== Sys2Proof/Machine/Frequency.lean ====
section
/-! DEFINITION. The frequency store (spec/41_frequency.md). -/

namespace Sys2Proof.Machine

/-- The body of FREQ_CLR after its precondition (R160). -/
def freqClrBody (s : State) : Except ErrCode State :=
  .ok { s with freq := Table.replicate 256 0#32, nsym := 0#9, total := 0#32 }

/-- FREQ_CLR (R160). -/
def execFreqClr (s : State) : Host.Outcome State Fault Refusal :=
  finish s (require (precondition .freqClr s) (freqClrBody s))

/-- FREQ[sym] <- n (R161, R162). -/
def State.setFreq (s : State) (sym : Byte) (n : Word) : State := { s with freq := s.freq.set sym.toNat n }

/-- The body of FREQ_ADD after its precondition (R161). -/
def freqAddBody (sym : Byte) (s : State) : Except ErrCode State :=
  if s.total = 0xFFFFFFFF#32 then .error .overflow
  else .ok { s.setFreq sym (s.freqAt sym + 1#32) with
    nsym  := if s.freqAt sym = 0#32 then s.nsym + 1#9 else s.nsym
    total := s.total + 1#32 }

/-- FREQ_ADD sym (R161). -/
def execFreqAdd (sym : Byte) (s : State) : Host.Outcome State Fault Refusal :=
  finish s (require (precondition (.freqAdd sym) s) (freqAddBody sym s))

/-- t = TOTAL - FREQ[SYM] + n, exact and unbounded (R162). -/
def freqSetTotal (sym : Byte) (s : State) : Int :=
  (s.total.toNat : Int) - (s.freqAt sym).toNat + s.countOperand.toNat

/-- NSYM + (n != 0 ? 1 : 0) - (FREQ[SYM] != 0 ? 1 : 0) (R162), in the register's 9 bits (log entry 16). -/
def freqSetNsym (sym : Byte) (s : State) : BitVec 9 :=
  s.nsym + BitVec.ofNat 9 (bitNat (s.countOperand != 0#32)) - BitVec.ofNat 9 (bitNat (s.freqAt sym != 0#32))

/-- The body of FREQ_SET after its precondition (R162). -/
def freqSetBody (sym : Byte) (s : State) : Except ErrCode State :=
  if freqSetTotal sym s > 0xFFFFFFFF then .error .overflow
  else .ok { s.setFreq sym s.countOperand with
    nsym  := freqSetNsym sym s
    total := BitVec.ofInt 32 (freqSetTotal sym s) }

/-- FREQ_SET sym (R162). -/
def execFreqSet (sym : Byte) (s : State) : Host.Outcome State Fault Refusal :=
  finish s (require (precondition (.freqSet sym) s) (freqSetBody sym s))

end Sys2Proof.Machine
end

