-- ==== Sys2Proof/Machine/Queue.lean ====
section
/-! DEFINITION. The priority collection of the tree builder (spec/42_tree_builder.md R172): node indices with their weights,
removed in the order of (WEIGHT, index). -/

namespace Sys2Proof.Machine

/-- A node index in the collection, beside its node's weight. -/
structure QEntry where
  weight : Word
  idx    : Nat
  deriving DecidableEq, Repr

/-- (WEIGHT, index) is lexicographically smaller (R172). -/
def queueBefore (a b : QEntry) : Bool :=
  decide (a.weight.toNat < b.weight.toNat) || (decide (a.weight = b.weight) && decide (a.idx < b.idx))

/-- Remove the smallest entry; none of an empty collection. -/
def popMin : List QEntry → Option (QEntry × List QEntry)
  | [] => none
  | e :: q =>
    match popMin q with
    | none => some (e, q)
    | some (m, rest) => if queueBefore e m then some (e, q) else some (m, e :: rest)

end Sys2Proof.Machine
end

