-- ==== Sys2Proof/Machine/TreeBuilder.lean ====
section
/-! DEFINITION. The tree builder (spec/42_tree_builder.md). -/

namespace Sys2Proof.Machine

/-- A leaf: its symbol and count, no children (R51, R171). -/
def leafNode (sym : Byte) (weight : Word) : Node := ⟨true, sym, weight, NIL, NIL⟩

/-- An internal node over two children: SYM = 0, WEIGHT the sum of theirs (R51, R172, R175). -/
def innerNode (a b : QEntry) : Node :=
  ⟨false, 0#8, a.weight + b.weight, BitVec.ofNat 9 a.idx, BitVec.ofNat 9 b.idx⟩

/-- One leaf for each nonzero count, for the counts of the symbols k, k+1, … in that order (R171). -/
def leavesFrom : Nat → List Word → List Node
  | _, [] => []
  | k, c :: cs =>
    if c = 0#32 then leavesFrom (k + 1) cs else leafNode (BitVec.ofNat 8 k) c :: leavesFrom (k + 1) cs

/-- The leaves of a frequency table, in ascending symbol order (R171). -/
def leaves (freq : FreqTable) : List Node := leavesFrom 0 freq.toList

/-- The collection over nodes at indices k, k+1, …: Q = {0, …, n-1} for the leaves (R170). -/
def queueFrom : Nat → List Node → List QEntry
  | _, [] => []
  | k, n :: ns => ⟨n.weight, k⟩ :: queueFrom (k + 1) ns

/-- The merge loop (R172): while two entries are left, the smallest becomes LEFT and the next smallest RIGHT of a new node at the
next free index. Each turn takes one entry away, so as many turns as there are leaves suffice. -/
def mergeLoop : Nat → List Node → List QEntry → List Node × List QEntry
  | 0, nodes, q => (nodes, q)
  | fuel + 1, nodes, q =>
    match popMin q with
    | none => (nodes, q)
    | some (a, q1) =>
      match popMin q1 with
      | none => (nodes, q)
      | some (b, q2) =>
        mergeLoop fuel (nodes ++ [innerNode a b]) (⟨a.weight + b.weight, nodes.length⟩ :: q2)

/-- The nodes of the tree and what is left in the collection (R170). -/
def buildTree (freq : FreqTable) : List Node × List QEntry :=
  mergeLoop (leaves freq).length (leaves freq) (queueFrom 0 (leaves freq))

/-- ROOT: the one element left, or NIL for the empty table (R170, R174). -/
def rootOf : List QEntry → NodeIdx
  | [] => NIL
  | e :: _ => BitVec.ofNat 9 e.idx

/-- NODE[k], NODE[k+1], … <- the nodes of a list; the other entries stay (R170). -/
def writeNodes : Nat → List Node → NodeTable → NodeTable
  | _, [], t => t
  | k, n :: ns, t => writeNodes (k + 1) ns (t.set k n)

/-- The body of BUILD after its precondition (R170). -/
def buildBody (s : State) : Except ErrCode State :=
  let r := buildTree s.freq
  .ok { s with
    root      := rootOf r.2
    nnodes    := BitVec.ofNat 10 r.1.length
    node      := writeNodes 0 r.1 s.node
    treeValid := true }

/-- BUILD (R170). -/
def execBuild (s : State) : Host.Outcome State Fault Refusal :=
  finish s (require (precondition .build s) (buildBody s))

end Sys2Proof.Machine
end

