-- ==== Sys2Proof/Machine/Dispatch.lean ====
section
/-! DEFINITION. One arm per command (spec/30_encoding.md R125). `exec` is the whole completion of a command (R262), and for RESET
what acceptance does (R151). -/

namespace Sys2Proof.Machine

def exec (i : Instr) (s : State) : Host.Outcome State Fault Refusal :=
  match i with
  -- control
  | .nop => Sys2Proof.Machine.execNop s
  | .reset => Sys2Proof.Machine.execReset s
  -- frequency store
  | .freqClr => Sys2Proof.Machine.execFreqClr s
  | .freqAdd sym => Sys2Proof.Machine.execFreqAdd sym s
  | .freqSet sym => Sys2Proof.Machine.execFreqSet sym s
  -- tree builder and code-table generator
  | .build => Sys2Proof.Machine.execBuild s
  | .gen => Sys2Proof.Machine.execGen s
  -- encoder
  | .encStart => Sys2Proof.Machine.execEncStart s
  | .encSym sym => Sys2Proof.Machine.execEncSym sym s
  | .encFlush => Sys2Proof.Machine.execEncFlush s
  -- decoder
  | .decStart => Sys2Proof.Machine.execDecStart s
  | .decByte byte nb => Sys2Proof.Machine.execDecByte byte nb s
  | .decEnd => Sys2Proof.Machine.execDecEnd s

end Sys2Proof.Machine
end

