-- ==== Sys2Proof/Machine/Agents.lean ====
section
/-! DEFINITION. What each agent does in one step: the core (spec/60_exceptions.md R262), the host (spec/20_memory.md R96) and the
reset pin (spec/70_reset_and_hazards.md R300, R302). -/

namespace Sys2Proof.Machine

/-- The core step: decode PEND and run the command; a word that is no command ends in E_ILLEGAL (R126, R127, R262). -/
def coreStep (s : State) : Host.Outcome State Fault Refusal :=
  match decode s.pend with
  | .ok i => exec i s
  | .error _ => .next (s.raise .illegal)

/-- The core's turn: its step is enabled exactly when BUSY = 1 (R262); otherwise all state is kept (R279). -/
def coreTurn (s : State) : Host.Outcome State Fault Refusal := if s.busy then coreStep s else .next s

/-- A rising clk edge with rst_n low: ResetAll (R300). -/
def State.resetEdge (s : State) : State := { s.resetAll with rstCycles := s.rstCycles + 1 }

/-- rst_n goes low; nothing is sampled before the next clk edge (R300). -/
def State.driveReset (s : State) : State :=
  if s.rstN then { s with rstN := false, rstCycles := 0 } else s

/-- rst_n goes high; a pulse of fewer than RST_MIN clk edges is outside the rules (R302, log entry 8). -/
def releaseReset (s : State) : Host.Outcome State Fault Refusal :=
  if s.rstN then .next s
  else if s.rstCycles < s.params.rstMin then .fault .resetPulseTooShort
  else .next { s with rstN := true, rstCycles := 0 }

/-- One input. While rst_n is low a clk edge resets the core whoever's turn it is, and a bus access has no meaning (R302, log
entry 9). -/
def inputStep (i : Input) (s : State) : Host.Outcome State Fault Refusal :=
  match i with
  | .bus op => if s.rstN then .next (s.busAccess op) else .refused .busAccessInReset
  | .core => if s.rstN then coreTurn s else .next s.resetEdge
  | .clk => if s.rstN then .next s else .next s.resetEdge
  | .rstLow => .next s.driveReset
  | .rstHigh => releaseReset s

/-- The input that comes next; with none left the core has its turn, so that a command in flight completes (R322). -/
def State.nextInput (s : State) : Input := s.inputs.headD .core

/-- The state as the next input finds it: that input taken off the list, and the bus answer of the cycle before gone (ack is "1
for one cycle", R304). -/
def State.takeInput (s : State) : State := { s with inputs := s.inputs.tail, resp := .none }

end Sys2Proof.Machine
end

