-- ==== Sys2Proof/Machine/Step.lean ====
section
/-! DEFINITION. One step of HUFFCORE: one input, taken by the agent it belongs to. -/

namespace Sys2Proof.Machine

/-- One step (spec/00_scope.md R4, spec/20_memory.md R96, spec/60_exceptions.md R262). -/
def step (s : State) : Host.Outcome State Fault Refusal := inputStep s.nextInput s.takeInput

/-- `s` with the command word w where the next step finds it. HUFFCORE fetches nothing (spec/10_state.md R31): a command runs
from the latch PEND, as the acceptance of R261 leaves it, with the core's turn next. RESET is never latched (R151): it runs as
the CMD write that presents it, which is then the next input. Log entry 3. -/
def State.withFetchWord (s : State) (nbits w : Nat) : State :=
  let word : Word := BitVec.ofNat 32 (w % 2 ^ nbits)
  if word = resetWord then { s with inputs := .bus (.write 0x004#32 word) :: s.inputs }
  else { s.latch word with inputs := .core :: s.inputs }

end Sys2Proof.Machine
end

