-- ==== Sys2Proof/Machine/HostProgram.lean ====
section
/-! DEFINITION. The notation of host programs (spec/30_encoding.md R141) and the pseudo-instructions (R142), as lists of inputs.
They are host-side sequences: none adds a command word. -/

namespace Sys2Proof.Machine.HostProgram

/-- `WR off, v` (R141). -/
def wr (off v : Word) : List Input := [.bus (.write off v)]

/-- `RD off` (R141). -/
def rd (off : Word) : List Input := [.bus (.read off)]

/-- `WAIT`: RD 0x00C until BUSY reads 0 (R141). The polls that read BUSY = 1 change nothing (R95), so the wait is the core's turn
and then the poll that reads BUSY = 0; log entry 19. -/
def wait : List Input := .core :: rd 0x00C#32

/-- A command line: `WR 0x004, word` followed by `WAIT` (R141). -/
def command (i : Instr) : List Input := wr 0x004#32 (encode i) ++ wait

/-- `SETFREQ sym, n` (R142). -/
def setFreq (sym : Byte) (n : Word) : List Input := wr 0x008#32 n ++ command (.freqSet sym)

/-- `FREQ_TEXT t` (R142). -/
def freqText (t : List Byte) : List Input := t.flatMap (fun b => command (.freqAdd b))

/-- `ENC_TEXT t` (R142). -/
def encText (t : List Byte) : List Input := t.flatMap (fun b => command (.encSym b))

/-- `DEC_FULL byte` (R142). -/
def decFull (byte : Byte) : List Input := command (.decByte byte 8#4)

/-- `DEC_LAST byte, pad` (R142): NB = 8 - pad, pad in 0..7. -/
def decLast (byte : Byte) (pad : BitVec 3) : List Input := command (.decByte byte (8#4 - pad.setWidth 4))

/-- `DEC_STREAM b0..bk-1, pad` (R142): nothing when k = 0. -/
def decStream (pad : BitVec 3) : List Byte → List Input
  | [] => []
  | [b] => decLast b pad
  | b :: c :: bs => decFull b ++ decStream pad (c :: bs)

/-- `CLRDONE` (R142). -/
def clrDone : List Input := wr 0x00C#32 0x2#32

end Sys2Proof.Machine.HostProgram
end

