-- ==== Sys2Proof/Safety.lean ====
section
/-! DEFINITION. What counts as a good state and a good run of HUFFCORE: the invariants of spec/10_state.md section 6 (R70-R73),
the relation of the trees and codes to paths (R53, R191), and runs of commands. -/

namespace Sys2Proof.Machine

/-! ## The frequency store (R70) -/

/-- |{s : FREQ[s] != 0}| (R70). -/
def presentSymbols (f : FreqTable) : Nat := f.toList.countP (fun c => decide (c ≠ 0#32))

/-- The sum of FREQ[s] over s (R70). -/
def sumOfCounts (f : FreqTable) : Nat := (f.toList.map BitVec.toNat).sum

/-- NSYM and TOTAL agree with FREQ (R70; TOTAL ≤ TOTAL_MAX is its width). -/
def FreqConsistent (s : State) : Prop := s.nsym.toNat = presentSymbols s.freq ∧ s.total.toNat = sumOfCounts s.freq

/-! ## The phases (R71) -/

/-- The phase flags are ordered (R71). -/
def PhaseOrdered (s : State) : Prop :=
  (s.treeValid = false → s.codeValid = false ∧ s.mode = .idle ∧ s.root = NIL ∧ s.nnodes = 0#10) ∧
  (s.mode = .enc → s.codeValid = true) ∧ (s.mode = .dec → s.treeValid = true)

/-! ## The tree and the codes (R53, R71, R107) -/

/-- While TREE_VALID = 1, NODE[0..NNODES-1] and ROOT are what BUILD makes of FREQ (R71, R107, R170). -/
def TreeIsBuilt (s : State) : Prop :=
  s.treeValid = true →
    s.root = rootOf (buildTree s.freq).2 ∧ s.nnodes.toNat = (buildTree s.freq).1.length ∧
    ∀ i n, (buildTree s.freq).1[i]? = some n → s.node.get? i = some n

/-- While CODE_VALID = 1, CODE and MAXLEN are what GEN makes of the tree (R107, R190). -/
def CodesAreGenerated (s : State) : Prop :=
  s.codeValid = true → genCodes s = .ok (s.code, s.maxlen.toNat)

/-- A path of branch bits from a node along internal nodes to a leaf (R191). -/
def LeafPath (t : NodeTable) : NodeIdx → List Bool → Prop
  | i, [] => (nodeAt t i).leaf = true
  | i, b :: bs => (nodeAt t i).leaf = false ∧ LeafPath t (childOf (nodeAt t i) b) bs

/-- The node a path of branch bits ends at (R191). -/
def followPath (t : NodeTable) : NodeIdx → List Bool → NodeIdx
  | i, [] => i
  | i, b :: bs => followPath t (childOf (nodeAt t i) b) bs

/-- p is the code the tree gives a symbol: the path to its leaf (R191), or "0" when ROOT is a leaf (R192). -/
def CodeOf (s : State) (sym : Byte) (p : List Bool) : Prop :=
  s.root ≠ NIL ∧
  if (s.nodeAt s.root).leaf = true then p = [false] ∧ (s.nodeAt s.root).sym = sym
  else LeafPath s.node s.root p ∧ (s.nodeAt (followPath s.node s.root p)).sym = sym

/-- Every valid code is the code the tree gives its symbol (R191, R192). -/
def CodesMatchTree (s : State) : Prop :=
  ∀ sym, (s.codeAt sym).valid = true → CodeOf s sym (codeString (s.codeAt sym))

/-- No path of internal nodes from i is longer than d: every leaf below i has depth at most d (R190, R196). -/
def shallow (t : NodeTable) : Nat → NodeIdx → Bool
  | 0, i => (nodeAt t i).leaf
  | d + 1, i => (nodeAt t i).leaf || (shallow t d (nodeAt t i).left && shallow t d (nodeAt t i).right)

/-- (WEIGHT, index) of node i is lexicographically smaller than that of node j (R172). -/
def NodeBefore (t : NodeTable) (i j : Nat) : Prop :=
  (nodeAt t (BitVec.ofNat 9 i)).weight.toNat < (nodeAt t (BitVec.ofNat 9 j)).weight.toNat ∨
  ((nodeAt t (BitVec.ofNat 9 i)).weight = (nodeAt t (BitVec.ofNat 9 j)).weight ∧ i < j)

/-- Node i is in the priority collection when node k is made, with n leaves: it exists and no node made before k has taken it as
a child (R172). -/
def Collected (t : NodeTable) (n k i : Nat) : Prop :=
  i < k ∧ ∀ j, n ≤ j → j < k →
    (nodeAt t (BitVec.ofNat 9 j)).left.toNat ≠ i ∧ (nodeAt t (BitVec.ofNat 9 j)).right.toNat ≠ i

/-- Node k takes the smallest collected node as LEFT and the smallest of the rest as RIGHT (R172). -/
def MergesSmallest (t : NodeTable) (n k : Nat) : Prop :=
  let l := (nodeAt t (BitVec.ofNat 9 k)).left.toNat
  let r := (nodeAt t (BitVec.ofNat 9 k)).right.toNat
  Collected t n k l ∧ Collected t n k r ∧ l ≠ r ∧ (∀ i, Collected t n k i → i ≠ l → NodeBefore t l i) ∧
    (∀ i, Collected t n k i → i ≠ l → i ≠ r → NodeBefore t r i)

/-! ## The encoder and the decoder (R72) -/

/-- While MODE = ENC: ACC_N = ENC_BITCNT mod 8 and ACC < 2^ACC_N (R72). -/
def EncoderInStep (s : State) : Prop :=
  s.mode = .enc → s.accN.toNat = s.encBitcnt.toNat % 8 ∧ s.acc.toNat < 2 ^ s.accN.toNat

/-- While MODE = DEC: CURSOR is ROOT for at most one symbol, and an internal node otherwise (R72). -/
def DecoderInTree (s : State) : Prop :=
  s.mode = .dec →
    (s.nsym.toNat ≤ 1 → s.cursor = s.root) ∧
    (1 < s.nsym.toNat → s.nsym.toNat ≤ s.cursor.toNat ∧ s.cursor.toNat < s.nnodes.toNat)

/-! ## The output buffer, the errors and the latch (R73) -/

/-- OUTCNT ≤ OUT_DEPTH (R73), and OUT is in its canonical form with no index at or past OUT_DEPTH (R56, log entry 17). -/
def OutputBounded (s : State) : Prop :=
  s.outcnt.toNat ≤ s.outDepth ∧ Memory.wf s.out = true ∧ Memory.below s.outDepth s.out = true

/-- ERR = 1 exactly when ERRCODE != 0 (R73). -/
def ErrorsConsistent (s : State) : Prop := s.err = true ↔ s.errcode ≠ none

/-- A command in flight is never RESET (R60, R151: RESET "is never latched"). -/
def LatchHoldsNoReset (s : State) : Prop := s.busy = true → s.pend ≠ resetWord

/-- The invariants of spec/10_state.md section 6 together. -/
structure Inv (s : State) : Prop where
  freq   : FreqConsistent s
  phase  : PhaseOrdered s
  tree   : TreeIsBuilt s
  codes  : CodesAreGenerated s
  enc    : EncoderInStep s
  dec    : DecoderInTree s
  out    : OutputBounded s
  errors : ErrorsConsistent s
  latch  : LatchHoldsNoReset s

/-! ## Runs of commands -/

/-- The state an outcome gives, if it gives one. -/
def stateOf (o : Host.Outcome State Fault Refusal) : Option State :=
  match o with
  | .next s => some s
  | .fault _ => none
  | .refused _ => none

/-- The host writes one command to CMD and waits for its completion (R141): acceptance (R261), then the core step (R262). -/
def issue (s : State) (i : Instr) : Option State := stateOf (coreTurn (s.accept (encode i)))

/-- The host issues the commands of a list, one after the other. -/
def issueAll : State → List Instr → Option State
  | s, [] => some s
  | s, i :: is =>
    match issue s i with
    | none => none
    | some t => issueAll t is

/-- The commands that encode a text (R305 step 5). -/
def encodeCommands (text : List Byte) : List Instr := .encStart :: (text.map Instr.encSym ++ [.encFlush])

/-- The DEC_BYTE commands of a stream with p padding bits: NB = 8 but for the last byte, where it is 8 - p (R142, R237). -/
def streamCommands (p : BitVec 3) : List Byte → List Instr
  | [] => []
  | [b] => [.decByte b (8#4 - p.setWidth 4)]
  | b :: c :: bs => .decByte b 8#4 :: streamCommands p (c :: bs)

/-- The commands that decode a stream (R305 step 6). -/
def decodeCommands (p : BitVec 3) (stream : List Byte) : List Instr := .decStart :: (streamCommands p stream ++ [.decEnd])

/-- OUT[0..OUTCNT-1], what the host reads as the result of an encoding or a decoding (R56). -/
def outputBytes (s : State) : List Byte := (List.range s.outcnt.toNat).map s.outByte

/-- The bit string S of a text: the codes of its symbols, one after the other (R214). -/
def textBits (s : State) (text : List Byte) : List Bool := text.flatMap (fun b => codeString (s.codeAt b))

end Sys2Proof.Machine
end

