-- ==== Sys2Proof/Certificates/Slice0/Obligations.lean ====
section
/-! DEFINITION. The statements about HUFFCORE for the provers, by the files of spec/. `s.raise e` is written out once, in
`TakingAnErrorKeepsTheRest`; `t.complete`, the end of a core step, is BUSY <- 0 and DONE <- 1 (R262). -/

open Sys2Proof Sys2Proof.Machine

/-! ## Encoding (spec/30_encoding.md) -/

/-- R122, R123, R125, R126: the decoder gives back every command, with every operand value the fields admit, from its word. -/
def Obligations.DecodeOfEncodeIsTheCommand : Prop := ∀ i : Instr, decode (encode i) = .ok i

/-- R125, R126: a word that decodes is the one word of its command; no bit of it is dropped. -/
def Obligations.EncodeOfDecodeIsTheWord : Prop := ∀ (w : Word) (i : Instr), decode w = .ok i → encode i = w

/-- R127: the illegal words are those whose OPC is unassigned or that set a bit their format reserves; they are accepted like
any other word, and their completion raises E_ILLEGAL with ERRCMD the word. -/
def Obligations.IllegalWordsEndInEIllegal : Prop :=
  (∀ w : Word, (∃ e, decode w = .error e) ↔
    ¬ ((opcOf w ∈ [0x00#8, 0x01#8, 0x10#8, 0x20#8, 0x30#8, 0x40#8, 0x42#8, 0x50#8, 0x52#8] ∧ w.extractLsb' 0 24 = 0#24) ∨
       (opcOf w ∈ [0x11#8, 0x12#8, 0x41#8] ∧ w.extractLsb' 8 16 = 0#16) ∨
       (opcOf w = 0x51#8 ∧ w.extractLsb' 12 12 = 0#12))) ∧
  (∀ (s : State) (w : Word), (∃ e, decode w = .error e) → s.err = false → s.busy = false →
    s.accept w = { s with pend := w, parg := s.arg0, busy := true, done := false } ∧
    (s.errcode = none → coreTurn (s.accept w) = .next { s.accept w with
      err := true, errcode := some .illegal, errcmd := w, busy := false, done := true }))

/-- R125, R126 and spec/95_test_vectors.md 2.1: words written out from the opcode map decode to the commands they stand for. -/
def Obligations.WordsOfTheSpecDecode : Prop :=
  decode 0x00000000#32 = .ok .nop ∧ decode 0x01000000#32 = .ok .reset ∧ decode 0x110000FF#32 = .ok (.freqAdd 0xFF#8) ∧
  decode 0x12000061#32 = .ok (.freqSet 0x61#8) ∧ decode 0x20000000#32 = .ok .build ∧ decode 0x30000000#32 = .ok .gen ∧
  decode 0x41000063#32 = .ok (.encSym 0x63#8) ∧ decode 0x510008A1#32 = .ok (.decByte 0xA1#8 8#4) ∧
  decode 0x52000000#32 = .ok .decEnd

/-! ## The command lifecycle (spec/60_exceptions.md) -/

/-- R262, and R261 case 1 for RESET: with the core's turn next and a command in flight, a step is `exec` of the decoded command on
the state with that turn used up; a CMD write of the RESET word is `exec .reset`, and the bus acknowledges it. The word that
`withFetchWord` places is the one the very next step runs (log entry 3). -/
def Obligations.StepRunsTheDecodedCommand : Prop :=
  (∀ (s : State) (i : Instr), s.rstN = true → s.busy = true → s.nextInput = .core → decode s.pend = .ok i →
    step s = exec i { s with inputs := s.inputs.tail, resp := .none }) ∧
  (∀ (s : State) (addr : Word), s.rstN = true → alignAddr addr = 0x004 → s.nextInput = .bus (.write addr resetWord) →
    ∃ t, exec .reset { s with inputs := s.inputs.tail, resp := .none } = .next t ∧ step s = .next { t with resp := .written }) ∧
  (∀ (s : State) (i : Instr), s.rstN = true →
    (i ≠ .reset → step (s.withFetchWord 32 (encode i).toNat) =
      exec i { s with pend := encode i, parg := s.arg0, busy := true, done := false, resp := .none }) ∧
    step (s.withFetchWord 32 (encode .reset).toNat) = .next { s.resetAll with resp := .written })

/-- R261: the four cases of a CMD write, the first that applies. -/
def Obligations.AcceptanceHasFourCases : Prop :=
  ∀ (s : State) (addr w : Word), alignAddr addr = 0x004 →
    (w = 0x01000000#32 → s.memWrite addr w = s.resetAll) ∧
    (w ≠ 0x01000000#32 → s.err = true → s.memWrite addr w = s) ∧
    (w ≠ 0x01000000#32 → s.err = false → s.busy = true → s.memWrite addr w = s.recordError .busy w) ∧
    (w ≠ 0x01000000#32 → s.err = false → s.busy = false →
      s.memWrite addr w = { s with pend := w, parg := s.arg0, busy := true, done := false })

/-- R262: the core step is enabled exactly when BUSY = 1, and every command in flight that acceptance can have latched completes:
BUSY <- 0, DONE <- 1, the latch kept. -/
def Obligations.EveryLatchedCommandCompletes : Prop :=
  ∀ s : State, (s.busy = false → coreTurn s = .next s) ∧
    (s.busy = true → s.pend ≠ resetWord →
      ∃ t, coreTurn s = .next t ∧ t.busy = false ∧ t.done = true ∧ t.pend = s.pend ∧ t.parg = s.parg)

/-- R264, R262: RecordError keeps the first error, sets ERR and changes nothing else; an error taken at completion does that with
the word in PEND and completes the command. -/
def Obligations.TakingAnErrorKeepsTheRest : Prop :=
  ∀ (s : State) (e : ErrCode) (w : Word),
    (s.errcode = none → s.recordError e w = { s with errcode := some e, errcmd := w, err := true }) ∧
    (s.errcode ≠ none → s.recordError e w = { s with err := true }) ∧
    s.raise e = { s.recordError e s.pend with busy := false, done := true }

/-- R13, R262: a command that raises an error leaves every table and register as it was, except the error registers. -/
def Obligations.CommandsAreAllOrNothing : Prop :=
  ∀ (i : Instr) (s t : State), i ≠ .reset → s.err = false → exec i s = .next t → t.err = true →
    ∃ e, t = { s with
      errcode := if s.errcode = none then some e else s.errcode
      errcmd := if s.errcode = none then s.pend else s.errcmd
      err := true
      busy := false
      done := true }

/-- R265: the preconditions of the commands; a false one is E_SEQ. -/
def Obligations.PreconditionsRaiseESeq : Prop :=
  ∀ (s : State) (sym byte : Byte) (nb : BitVec 4),
    (∃ t, exec .nop s = .next t ∧ t.errcode = s.errcode ∧ t.err = s.err) ∧ (∃ t, exec .reset s = .next t ∧ t.err = false) ∧
    (s.treeValid = true → exec .freqClr s = .next (s.raise .seq) ∧ exec (.freqAdd sym) s = .next (s.raise .seq) ∧
      exec (.freqSet sym) s = .next (s.raise .seq) ∧ exec .build s = .next (s.raise .seq)) ∧
    (¬ (s.treeValid = true ∧ s.codeValid = false) → exec .gen s = .next (s.raise .seq)) ∧
    (¬ (s.codeValid = true ∧ s.mode = .idle) → exec .encStart s = .next (s.raise .seq)) ∧
    (s.mode ≠ .enc → exec (.encSym sym) s = .next (s.raise .seq) ∧ exec .encFlush s = .next (s.raise .seq)) ∧
    (¬ (s.treeValid = true ∧ s.mode = .idle) → exec .decStart s = .next (s.raise .seq)) ∧
    (s.mode ≠ .dec → exec (.decByte byte nb) s = .next (s.raise .seq) ∧ exec .decEnd s = .next (s.raise .seq))

/-- R266, R272: from FAULT, a step leaves the first error's record as it is, unless it is a RESET command or the pin rst_n is
low. The premises on ERRCODE and PEND are R73 and R151 (invariants: `ErrorsAndLatchKept`). -/
def Obligations.FaultHoldsUntilReset : Prop :=
  ∀ s t : State, s.err = true → s.errcode ≠ none → LatchHoldsNoReset s → step s = .next t →
    (t.err = true ∧ t.errcode = s.errcode ∧ t.errcmd = s.errcmd) ∨
    (∃ addr, alignAddr addr = 0x004 ∧ s.nextInput = .bus (.write addr resetWord)) ∨ s.rstN = false

/-- R270: the interrupt output is a function of DONE, ERR and the two enables; STATUS bit 1 written 1 or the next acceptance
takes the DONE source away, CTRL masks either source, and the ERR source clears only at reset: no other write and no completion
clears ERR. -/
def Obligations.IrqIsALevelOfTheState : Prop :=
  ∀ (s : State) (v w : Word),
    (s.irq = true ↔ (s.done = true ∧ s.ieDone = true) ∨ (s.err = true ∧ s.ieErr = true)) ∧
    (v.getLsbD 1 = true → ((s.memWrite 0x00C#32 v).irq = true ↔ s.err = true ∧ s.ieErr = true)) ∧
    (s.err = false → s.busy = false → (s.accept w).irq = false) ∧
    ((s.memWrite 0x018#32 v).irq = true ↔ (s.done = true ∧ v.getLsbD 0 = true) ∨ (s.err = true ∧ v.getLsbD 1 = true)) ∧
    (s.err = true → (∀ addr, ¬ (alignAddr addr = 0x004 ∧ w = resetWord) → (s.memWrite addr w).err = true) ∧
      (∀ i t, i ≠ .reset → exec i s = .next t → t.err = true)) ∧ s.resetAll.irq = false

/-- R322 in the model's schedule (log entry 1): a command in flight is completed, or abandoned by a reset, within one step more
than there are inputs, whatever the inputs are, as long as rst_n stays high. -/
def Obligations.CommandsInFlightComplete : Prop :=
  ∀ s : State, s.rstN = true → s.busy = true → Input.rstLow ∉ s.inputs →
    ∃ n t, n ≤ s.inputs.length + 1 ∧ Host.Core.run Sys2Proof.core n s = .next t ∧ t.busy = false

/-- R141 in the model's schedule (log entry 19): the inputs of a command line run the command as `issue` does, and the last poll
reads STATUS. -/
def Obligations.CommandLineIssuesTheCommand : Prop :=
  ∀ (s : State) (i : Instr) (rest : List Input), s.rstN = true → s.inputs = HostProgram.command i ++ rest →
    ∃ u, issue s i = some u ∧ Host.Core.run Sys2Proof.core 3 s =
      .next { u with inputs := rest, resp := .data u.statusWord, draws := s.draws + 1 }

/-! ## What each command leaves unchanged -/

/-- R13, R94-R101, and the "Flags written" of R150-R236: every register, flag and table but those named for the command is
unchanged, whether the command succeeds or takes an error (the error registers, BUSY and DONE are the completion's). -/
def Obligations.EachCommandHasItsFrame : Prop :=
  ∀ (s t : State) (sym byte : Byte) (nb : BitVec 4),
    (exec .nop s = .next t → t = { s with busy := false, done := true }) ∧
    (exec .freqClr s = .next t ∨ exec (.freqAdd sym) s = .next t ∨ exec (.freqSet sym) s = .next t →
      t = { s with freq := t.freq, nsym := t.nsym, total := t.total, err := t.err, errcode := t.errcode, errcmd := t.errcmd,
                   busy := false, done := true } ∧
      (exec .freqClr s = .next t ∨ ∀ b, b ≠ sym → t.freqAt b = s.freqAt b)) ∧
    (exec .build s = .next t →
      t = { s with node := t.node, root := t.root, nnodes := t.nnodes, treeValid := true, err := t.err,
                   errcode := t.errcode, errcmd := t.errcmd, busy := false, done := true }) ∧
    (exec .gen s = .next t →
      t = { s with code := t.code, maxlen := t.maxlen, codeValid := t.codeValid, err := t.err,
                   errcode := t.errcode, errcmd := t.errcmd, busy := false, done := true }) ∧
    (exec .encStart s = .next t →
      t = { s with mode := t.mode, outcnt := t.outcnt, encBitcnt := t.encBitcnt, padbits := t.padbits, acc := t.acc,
                   accN := t.accN, err := t.err, errcode := t.errcode, errcmd := t.errcmd, busy := false, done := true }) ∧
    (exec (.encSym sym) s = .next t →
      t = { s with out := t.out, outcnt := t.outcnt, encBitcnt := t.encBitcnt, acc := t.acc, accN := t.accN,
                   err := t.err, errcode := t.errcode, errcmd := t.errcmd, busy := false, done := true }) ∧
    (exec .encFlush s = .next t →
      t = { s with mode := t.mode, out := t.out, outcnt := t.outcnt, padbits := t.padbits, acc := t.acc, accN := t.accN,
                   err := t.err, errcode := t.errcode, errcmd := t.errcmd, busy := false, done := true }) ∧
    (exec .decStart s = .next t →
      t = { s with mode := t.mode, decPartial := t.decPartial, outcnt := t.outcnt, decBitcnt := t.decBitcnt,
                   cursor := t.cursor, err := t.err, errcode := t.errcode, errcmd := t.errcmd, busy := false,
                   done := true }) ∧
    (exec (.decByte byte nb) s = .next t →
      t = { s with out := t.out, outcnt := t.outcnt, cursor := t.cursor, decBitcnt := t.decBitcnt, err := t.err,
                   errcode := t.errcode, errcmd := t.errcmd, busy := false, done := true }) ∧
    (exec .decEnd s = .next t →
      t = { s with mode := t.mode, decPartial := t.decPartial, err := t.err, errcode := t.errcode, errcmd := t.errcmd,
                   busy := false, done := true })

/-- R211-R213, R232: the commands that store into OUT store at the indices from OUTCNT before to OUTCNT after, and nowhere
else; every other command stores nothing. -/
def Obligations.OnlyNewOutputBytesChange : Prop :=
  ∀ (i : Instr) (s t : State), Memory.wf s.out = true → exec i s = .next t →
    ((∃ sym, i = .encSym sym) ∨ i = .encFlush ∨ (∃ byte nb, i = .decByte byte nb) →
      s.outcnt.toNat ≤ t.outcnt.toNat ∧
      ∀ j, j < s.outcnt.toNat ∨ t.outcnt.toNat ≤ j → t.outByte j = s.outByte j) ∧
    ((∀ sym, i ≠ .encSym sym) → i ≠ .encFlush → (∀ byte nb, i ≠ .decByte byte nb) → ∀ j, t.outByte j = s.outByte j)

/-! ## Control (spec/40_control.md) -/

/-- R150: the word 0x00000000 is NOP and no other word of its OPC is a command; NOP is valid in every state and only completes;
written in FAULT it is discarded, and while BUSY = 1 it is E_BUSY. -/
def Obligations.NopOnlyCompletes : Prop :=
  (∀ w : Word, opcOf w = 0x00#8 → decode w = .ok .nop ∧ w = 0x00000000#32 ∨ ∃ e, decode w = .error e) ∧
  decode 0x00000000#32 = .ok .nop ∧
  ∀ s : State, exec .nop s = .next { s with busy := false, done := true } ∧
    (s.err = true → s.accept 0x00000000#32 = s) ∧
    (s.err = false → s.busy = true → s.accept 0x00000000#32 = s.recordError .busy 0x00000000#32)

/-- R151, R301: the word 0x01000000 written to CMD resets every register and FREQ in every state and leaves NODE, CODE and OUT
as they are; any command in flight is gone (what PEND and PARG hold then is not stated). No other word of its OPC is a command. -/
def Obligations.ResetCommandPerformsResetAll : Prop :=
  decode 0x01000000#32 = .ok .reset ∧
  (∀ w : Word, opcOf w = 0x01#8 → w ≠ 0x01000000#32 → ∃ e, decode w = .error e) ∧
  ∀ s : State, ∃ t, exec .reset s = .next t ∧ s.memWrite 0x004#32 0x01000000#32 = t ∧ coreTurn t = .next t ∧
    t = { s with
      arg0 := 0#32, busy := false, done := false, err := false, treeValid := false, codeValid := false, mode := .idle,
      decPartial := false, errcode := none, errcmd := 0#32, ieDone := false, ieErr := false, nsym := 0#9, total := 0#32,
      root := 0x1FF#9, nnodes := 0#10, maxlen := 0#8, outcnt := 0#17, encBitcnt := 0#32, padbits := 0#3,
      decBitcnt := 0#32, cursor := 0x1FF#9, freq := t.freq, acc := 0#7, accN := 0#3, pend := t.pend, parg := t.parg } ∧
    (∀ sym, t.freqAt sym = 0#32) ∧ t.statusWord = 0#32 ∧ t.irq = false

/-! ## The frequency store (spec/41_frequency.md) -/

/-- R160: FREQ_CLR. -/
def Obligations.FreqClrClearsTheTable : Prop :=
  decode 0x10000000#32 = .ok .freqClr ∧
  ∀ s : State, (s.treeValid = true → exec .freqClr s = .next (s.raise .seq)) ∧
    (s.treeValid = false → ∃ t, exec .freqClr s = .next t ∧ (∀ sym, t.freqAt sym = 0#32) ∧
      t = { s with freq := t.freq, nsym := 0#9, total := 0#32, busy := false, done := true })

/-- R161: FREQ_ADD. -/
def Obligations.FreqAddCountsOne : Prop :=
  ∀ (s : State) (sym : Byte), decode (0x11000000#32 ||| sym.setWidth 32) = .ok (.freqAdd sym) ∧
    (s.treeValid = true → exec (.freqAdd sym) s = .next (s.raise .seq)) ∧
    (s.treeValid = false → s.total = 0xFFFFFFFF#32 → exec (.freqAdd sym) s = .next (s.raise .overflow)) ∧
    (s.treeValid = false → s.total ≠ 0xFFFFFFFF#32 → ∃ t, exec (.freqAdd sym) s = .next t ∧
      (∀ b, t.freqAt b = if b = sym then s.freqAt sym + 1#32 else s.freqAt b) ∧
      t = { s with freq := t.freq, nsym := if s.freqAt sym = 0#32 then s.nsym + 1#9 else s.nsym,
                   total := s.total + 1#32, busy := false, done := true })

/-- R162: FREQ_SET, the count being PARG; TOTAL and NSYM are stated as the exact sums of R162 whenever those fit the registers,
as R70 makes them (the premises on TOTAL and NSYM; invariant: `FreqConsistentKept`). -/
def Obligations.FreqSetLoadsTheCount : Prop :=
  ∀ (s : State) (sym : Byte), decode (0x12000000#32 ||| sym.setWidth 32) = .ok (.freqSet sym) ∧
    (s.treeValid = true → exec (.freqSet sym) s = .next (s.raise .seq)) ∧
    (s.treeValid = false → (s.freqAt sym).toNat ≤ s.total.toNat →
      (0xFFFFFFFF < s.total.toNat - (s.freqAt sym).toNat + s.parg.toNat →
        exec (.freqSet sym) s = .next (s.raise .overflow)) ∧
      (s.total.toNat - (s.freqAt sym).toNat + s.parg.toNat ≤ 0xFFFFFFFF →
        (s.freqAt sym ≠ 0#32 → 1 ≤ s.nsym.toNat) → s.nsym.toNat ≤ 256 →
        ∃ t, exec (.freqSet sym) s = .next t ∧
          (∀ b, t.freqAt b = if b = sym then s.parg else s.freqAt b) ∧
          t.total.toNat = s.total.toNat - (s.freqAt sym).toNat + s.parg.toNat ∧
          t.nsym.toNat + (if s.freqAt sym = 0#32 then 0 else 1) = s.nsym.toNat + (if s.parg = 0#32 then 0 else 1) ∧
          t = { s with freq := t.freq, nsym := t.nsym, total := t.total, busy := false, done := true }))

/-- R164, which the spec marks as its own inference from R161: FREQ_ADD of each symbol of a text, from reset, leaves the number
of occurrences of every symbol, the number of distinct symbols and the length; a longer text raises E_OVERFLOW. -/
def Obligations.FreqTextCountsOccurrences : Prop :=
  ∀ (s : State) (text : List Byte),
    (text.length ≤ 0xFFFFFFFF → ∃ t, issueAll s.resetAll (text.map Instr.freqAdd) = some t ∧ t.err = false ∧
      (∀ sym, (t.freqAt sym).toNat = text.count sym) ∧ t.nsym.toNat = text.dedup.length ∧ t.total.toNat = text.length) ∧
    (0xFFFFFFFF < text.length → ∃ t, issueAll s.resetAll (text.map Instr.freqAdd) = some t ∧ t.errcode = some .overflow)

/-- R163 and R107, R71 (R163 and R71 are inferences of the spec's own): from one state with a tree to the next, no step changes
FREQ, NSYM, TOTAL, the tree, or a code table that is valid. -/
def Obligations.TablesAreFrozenOnceBuilt : Prop :=
  ∀ s t : State, s.treeValid = true → step s = .next t → t.treeValid = true →
    t.freq = s.freq ∧ t.nsym = s.nsym ∧ t.total = s.total ∧ t.node = s.node ∧ t.root = s.root ∧ t.nnodes = s.nnodes ∧
    (s.codeValid = true → t.codeValid = true ∧ t.code = s.code ∧ t.maxlen = s.maxlen)

/-! ## The tree builder (spec/42_tree_builder.md) -/

/-- R171: one leaf per symbol of nonzero count, in ascending order of symbols, at indices 0 to NSYM - 1 (the number of nonzero
counts); its WEIGHT is the count and its children are NIL. -/
def Obligations.BuildPlacesLeavesInOrder : Prop :=
  ∀ s : State, s.treeValid = false → ∃ t, exec .build s = .next t ∧ t.treeValid = true ∧
    (∀ k, k < presentSymbols s.freq → ∃ sym, s.freqAt sym ≠ 0#32 ∧
      t.nodeAt (BitVec.ofNat 9 k) = ⟨true, sym, s.freqAt sym, 0x1FF#9, 0x1FF#9⟩) ∧
    (∀ k k', k < k' → k' < presentSymbols s.freq →
      (t.nodeAt (BitVec.ofNat 9 k)).sym.toNat < (t.nodeAt (BitVec.ofNat 9 k')).sym.toNat) ∧
    (∀ sym, s.freqAt sym ≠ 0#32 → ∃ k, k < presentSymbols s.freq ∧ (t.nodeAt (BitVec.ofNat 9 k)).sym = sym)

/-- R172: for two symbols or more, every node past the leaves takes the smallest (WEIGHT, index) of the collection as LEFT and
the smallest of the rest as RIGHT, weighs their sum, and stands at the next free index; child indices are below the parent's. -/
def Obligations.BuildMergesTheTwoSmallest : Prop :=
  ∀ s : State, s.treeValid = false → 2 ≤ presentSymbols s.freq → ∃ t, exec .build s = .next t ∧ t.treeValid = true ∧
    t.nnodes.toNat = 2 * presentSymbols s.freq - 1 ∧ t.root.toNat + 1 = t.nnodes.toNat ∧
    ∀ k, presentSymbols s.freq ≤ k → k < t.nnodes.toNat →
      (t.nodeAt (BitVec.ofNat 9 k)).leaf = false ∧ (t.nodeAt (BitVec.ofNat 9 k)).sym = 0#8 ∧
      (t.nodeAt (BitVec.ofNat 9 k)).left.toNat < k ∧ (t.nodeAt (BitVec.ofNat 9 k)).right.toNat < k ∧
      (t.nodeAt (BitVec.ofNat 9 k)).weight =
        (t.nodeAt (t.nodeAt (BitVec.ofNat 9 k)).left).weight + (t.nodeAt (t.nodeAt (BitVec.ofNat 9 k)).right).weight ∧
      MergesSmallest t.node (presentSymbols s.freq) k

/-- R173 and R174: with one symbol ROOT = 0 is the single leaf; with none BUILD succeeds, gives the empty tree and writes no
node. -/
def Obligations.BuildOfOneOrNoSymbol : Prop :=
  ∀ s : State, s.treeValid = false →
    (presentSymbols s.freq = 0 → exec .build s =
      .next { s with treeValid := true, root := 0x1FF#9, nnodes := 0#10, busy := false, done := true }) ∧
    (presentSymbols s.freq = 1 → ∃ t sym, exec .build s = .next t ∧ t.treeValid = true ∧ s.freqAt sym ≠ 0#32 ∧
      t.root = 0#9 ∧ t.nnodes = 1#10 ∧ t.nodeAt 0#9 = ⟨true, sym, s.freqAt sym, 0x1FF#9, 0x1FF#9⟩)

/-- R175, which the spec marks as its own inference: with TOTAL the sum of the counts, no weight wraps, and ROOT weighs
TOTAL. -/
def Obligations.WeightsNeverWrap : Prop :=
  ∀ s t : State, FreqConsistent s → s.treeValid = false → 1 ≤ presentSymbols s.freq → exec .build s = .next t →
    (t.nodeAt t.root).weight = s.total ∧
    ∀ k, presentSymbols s.freq ≤ k → k < t.nnodes.toNat →
      (t.nodeAt (BitVec.ofNat 9 k)).weight.toNat =
        (t.nodeAt (t.nodeAt (BitVec.ofNat 9 k)).left).weight.toNat +
        (t.nodeAt (t.nodeAt (BitVec.ofNat 9 k)).right).weight.toNat

/-- R196, whose bound the spec takes from general knowledge: no leaf of a tree BUILD makes lies deeper than 45, so a GEN on it
never raises E_CODELEN: it completes with every LEN and MAXLEN at most 45. -/
def Obligations.TreesAreAtMost45Deep : Prop :=
  ∀ s t : State, FreqConsistent s → s.treeValid = false → 1 ≤ presentSymbols s.freq → exec .build s = .next t →
    shallow t.node 45 t.root = true ∧
    (s.codeValid = false → ∃ u, exec .gen t = .next u ∧ u.codeValid = true ∧ u.err = s.err ∧ u.errcode = s.errcode ∧
      u.maxlen.toNat ≤ 45 ∧ ∀ sym, (u.codeAt sym).len.toNat ≤ 45)

/-! ## The code-table generator (spec/43_code_generator.md) -/

/-- R190, R191, R194, R198: over a tree with no leaf deeper than 64, GEN completes, every valid code is the path to a leaf of its
symbol with its unused BITS 0, every leaf's symbol has a code, and MAXLEN is the longest length; with a deeper leaf it raises E_CODELEN (on a NODE table
that is no tree, what the model calls deeper is log entry 10). -/
def Obligations.GenWritesThePathsOfTheTree : Prop :=
  ∀ s : State, s.treeValid = true → s.codeValid = false → s.root ≠ NIL → (s.nodeAt s.root).leaf = false →
    (shallow s.node 64 s.root = true → ∃ t, exec .gen s = .next t ∧ t.codeValid = true ∧
      t = { s with code := t.code, maxlen := t.maxlen, codeValid := true, busy := false, done := true } ∧
      CodesMatchTree t ∧
      (∀ p, LeafPath s.node s.root p → (t.codeAt (s.nodeAt (followPath s.node s.root p)).sym).valid = true ∧
        p.length ≤ t.maxlen.toNat) ∧
      (∃ p, LeafPath s.node s.root p ∧ p.length = t.maxlen.toNat) ∧
      (∀ sym, (t.codeAt sym).valid = false → t.codeAt sym = ⟨false, 0#8, 0#64⟩) ∧
      (∀ sym, (t.codeAt sym).bits.toNat < 2 ^ (t.codeAt sym).len.toNat)) ∧
    (shallow s.node 64 s.root = false → exec .gen s = .next (s.raise .codelen))

/-- R192: when ROOT is a leaf, its symbol gets the code "0" and MAXLEN is 1; no other symbol has a code. -/
def Obligations.GenOfOneSymbolIsZero : Prop :=
  ∀ s : State, s.treeValid = true → s.codeValid = false → s.root ≠ NIL → (s.nodeAt s.root).leaf = true →
    ∃ t, exec .gen s = .next t ∧ t.codeValid = true ∧ t.maxlen = 1#8 ∧
      ∀ sym, t.codeAt sym = if sym = (s.nodeAt s.root).sym then ⟨true, 1#8, 0#64⟩ else ⟨false, 0#8, 0#64⟩

/-- R193: over the empty tree GEN succeeds with no valid code and MAXLEN = 0, and any later ENC_SYM raises E_NOCODE: in every
state with the empty tree whose codes are GEN's (an invariant: `TreeAndCodesKept`), and so after the GEN and an ENC_START. -/
def Obligations.GenOfTheEmptyTree : Prop :=
  (∀ (u : State) (sym : Byte), CodesAreGenerated u → u.codeValid = true → u.root = NIL → u.mode = .enc →
    exec (.encSym sym) u = .next (u.raise .nocode)) ∧
  ∀ s : State, s.treeValid = true → s.codeValid = false → s.root = NIL →
    ∃ t, exec .gen s = .next t ∧ t.codeValid = true ∧ t.maxlen = 0#8 ∧
      (∀ sym, t.codeAt sym = ⟨false, 0#8, 0#64⟩) ∧
      ∀ u sym, exec .encStart t = .next u → u.mode = .enc → exec (.encSym sym) u = .next (u.raise .nocode)

/-- R195, which the spec marks as its own inference: no valid code is a prefix of another symbol's. -/
def Obligations.CodesArePrefixFree : Prop :=
  ∀ (s : State) (a b : Byte), CodesMatchTree s → (s.codeAt a).valid = true → (s.codeAt b).valid = true → a ≠ b →
    ¬ codeString (s.codeAt a) <+: codeString (s.codeAt b)

/-- R195 (the spec's own inference) and R191, R192, in a good state with codes: exactly the symbols of nonzero count have one, the
codes are those the tree gives, none of length 0 (spec/90_conflicts.md C1) and none longer than MAXLEN. -/
def Obligations.GoodStatesHaveTheTreesCodes : Prop :=
  ∀ s : State, Inv s → s.codeValid = true → CodesMatchTree s ∧
    (∀ sym, (s.codeAt sym).valid = true ↔ s.freqAt sym ≠ 0#32) ∧
    ∀ sym, (s.codeAt sym).valid = true → 1 ≤ (s.codeAt sym).len.toNat ∧ (s.codeAt sym).len.toNat ≤ s.maxlen.toNat

/-! ## The encoder (spec/44_encoder.md) -/

/-- R210: ENC_START. -/
def Obligations.EncStartBeginsAnEncoding : Prop :=
  decode 0x40000000#32 = .ok .encStart ∧
  ∀ s : State, (¬ (s.codeValid = true ∧ s.mode = .idle) → exec .encStart s = .next (s.raise .seq)) ∧
    (s.codeValid = true → s.mode = .idle → exec .encStart s = .next { s with
      mode := .enc, outcnt := 0#17, encBitcnt := 0#32, padbits := 0#3, acc := 0#7, accN := 0#3, busy := false,
      done := true })

/-- R213: PushBit appends one bit to the pending bits; the eighth goes to OUT with them, the earliest in bit 7, and the other
bytes of OUT stay. -/
def Obligations.PushBitFillsBytesFromBitSeven : Prop :=
  ∀ (s : State) (b : Bool), Memory.wf s.out = true →
    (s.accN ≠ 7#3 → (s.pushBit b).accN = s.accN + 1#3 ∧
      (s.pushBit b).acc.toNat = 2 * (s.acc.toNat % 2 ^ s.accN.toNat) + (if b then 1 else 0) ∧
      s.pushBit b = { s with acc := (s.pushBit b).acc, accN := (s.pushBit b).accN }) ∧
    (s.accN = 7#3 → (s.pushBit b).outcnt = s.outcnt + 1#17 ∧
      (s.pushBit b).outByte s.outcnt.toNat = (s.acc ++ BitVec.ofBool b : BitVec 8) ∧
      (∀ j, j ≠ s.outcnt.toNat → (s.pushBit b).outByte j = s.outByte j) ∧
      s.pushBit b = { s with out := (s.pushBit b).out, outcnt := (s.pushBit b).outcnt, acc := 0#7, accN := 0#3 })

/-- R211: ENC_SYM, its three errors in order, and on success the code's bits pushed first bit first. -/
def Obligations.EncSymAppendsTheCode : Prop :=
  ∀ (s : State) (sym : Byte), decode (0x41000000#32 ||| sym.setWidth 32) = .ok (.encSym sym) ∧
    (s.mode ≠ .enc → exec (.encSym sym) s = .next (s.raise .seq)) ∧
    (s.mode = .enc → (s.codeAt sym).valid = false → exec (.encSym sym) s = .next (s.raise .nocode)) ∧
    (s.mode = .enc → (s.codeAt sym).valid = true →
      s.outDepth < s.outcnt.toNat + (s.accN.toNat + (s.codeAt sym).len.toNat) / 8 →
      exec (.encSym sym) s = .next (s.raise .outfull)) ∧
    (s.mode = .enc → (s.codeAt sym).valid = true →
      s.outcnt.toNat + (s.accN.toNat + (s.codeAt sym).len.toNat) / 8 ≤ s.outDepth →
      exec (.encSym sym) s = .next { s.pushBits (codeString (s.codeAt sym)) with
        encBitcnt := s.encBitcnt + (s.codeAt sym).len.setWidth 32, busy := false, done := true } ∧
      (s.pushBits (codeString (s.codeAt sym))).outcnt.toNat =
        s.outcnt.toNat + (s.accN.toNat + (s.codeAt sym).len.toNat) / 8 ∧
      (s.pushBits (codeString (s.codeAt sym))).accN.toNat = (s.accN.toNat + (s.codeAt sym).len.toNat) % 8)

/-- R212: ENC_FLUSH pads the pending bits with zeros below, or writes no byte when none is pending. -/
def Obligations.EncFlushPadsTheLastByte : Prop :=
  decode 0x42000000#32 = .ok .encFlush ∧
  ∀ s : State, (s.mode ≠ .enc → exec .encFlush s = .next (s.raise .seq)) ∧
    (s.mode = .enc → s.accN = 0#3 → exec .encFlush s = .next { s with
      padbits := 0#3, acc := 0#7, accN := 0#3, mode := .idle, busy := false, done := true }) ∧
    (s.mode = .enc → s.accN ≠ 0#3 → s.outDepth < s.outcnt.toNat + 1 → exec .encFlush s = .next (s.raise .outfull)) ∧
    (s.mode = .enc → s.accN ≠ 0#3 → s.outcnt.toNat + 1 ≤ s.outDepth → Memory.wf s.out = true →
      ∃ t, exec .encFlush s = .next t ∧
        (t.outByte s.outcnt.toNat).toNat = s.acc.toNat * 2 ^ (8 - s.accN.toNat) % 256 ∧
        (∀ j, j ≠ s.outcnt.toNat → t.outByte j = s.outByte j) ∧ t.padbits.toNat = 8 - s.accN.toNat ∧
        t = { s with out := t.out, outcnt := s.outcnt + 1#17, padbits := t.padbits, acc := 0#7, accN := 0#3,
                     mode := .idle, busy := false, done := true })

/-- R214, which the spec marks as its own inference, with the room of R215: encoding a text all of whose symbols have codes
leaves its bit string S, padded with PADBITS zeros, in OUT. -/
def Obligations.EncodingWritesTheBitString : Prop :=
  ∀ (s : State) (text : List Byte), s.err = false → s.busy = false → s.codeValid = true → s.mode = .idle →
    OutputBounded s → (∀ b ∈ text, (s.codeAt b).valid = true) → ((textBits s text).length + 7) / 8 ≤ s.outDepth →
    ∃ t, issueAll s (encodeCommands text) = some t ∧ t.err = false ∧ t.mode = .idle ∧
      t.outcnt.toNat = ((textBits s text).length + 7) / 8 ∧
      t.padbits.toNat = (8 - (textBits s text).length % 8) % 8 ∧
      t.encBitcnt.toNat = (textBits s text).length % 2 ^ 32 ∧
      (outputBytes t).flatMap (fun b => streamBits b 8) =
        textBits s text ++ List.replicate t.padbits.toNat false

/-- R215: an encoding with no room for its bytes ends in FAULT with E_OUTFULL. -/
def Obligations.EncodingWithoutRoomFaults : Prop :=
  ∀ (s : State) (text : List Byte), s.err = false → s.errcode = none → s.busy = false → s.codeValid = true →
    s.mode = .idle → (∀ b ∈ text, (s.codeAt b).valid = true) → s.outDepth < ((textBits s text).length + 7) / 8 →
    ∃ t, issueAll s (encodeCommands text) = some t ∧ t.err = true ∧ t.errcode = some .outfull

/-! ## The decoder (spec/45_decoder.md) -/

/-- R230: DEC_START. -/
def Obligations.DecStartBeginsADecoding : Prop :=
  decode 0x50000000#32 = .ok .decStart ∧
  ∀ s : State, (¬ (s.treeValid = true ∧ s.mode = .idle) → exec .decStart s = .next (s.raise .seq)) ∧
    (s.treeValid = true → s.mode = .idle → exec .decStart s = .next { s with
      mode := .dec, decPartial := false, outcnt := 0#17, decBitcnt := 0#32, cursor := s.root, busy := false,
      done := true })

/-- R231: Step. -/
def Obligations.TreeStepFollowsOneBit : Prop :=
  ∀ (s : State) (cur : NodeIdx) (b : Bool),
    (s.root = NIL → treeStep s cur b = .error .badcode) ∧
    (s.root ≠ NIL → (s.nodeAt cur).leaf = true →
      treeStep s cur false = .ok (s.root, some (s.nodeAt s.root).sym) ∧ treeStep s cur true = .error .badcode) ∧
    (s.root ≠ NIL → (s.nodeAt cur).leaf = false → ∀ nxt, nxt = (if b then (s.nodeAt cur).right else (s.nodeAt cur).left) →
      ((s.nodeAt nxt).leaf = true → treeStep s cur b = .ok (s.root, some (s.nodeAt nxt).sym)) ∧
      ((s.nodeAt nxt).leaf = false → treeStep s cur b = .ok (nxt, none)))

/-- R232, R267: DEC_BYTE, its errors in order, and on success the symbols of the walk emitted in order. -/
def Obligations.DecByteEmitsTheWalkedSymbols : Prop :=
  ∀ (s : State) (byte : Byte) (nb : BitVec 4),
    decode (0x51000000#32 ||| (nb.setWidth 32 <<< 8) ||| byte.setWidth 32) = .ok (.decByte byte nb) ∧
    (s.mode ≠ .dec → exec (.decByte byte nb) s = .next (s.raise .seq)) ∧
    (s.mode = .dec → 8 < nb.toNat → exec (.decByte byte nb) s = .next (s.raise .badarg)) ∧
    (s.mode = .dec → nb.toNat ≤ 8 → ∀ bits, bits = (List.range nb.toNat).map (fun j => byte.getLsbD (7 - j)) →
      (∀ e, walkBits s s.cursor bits = .error e → e = .badcode ∧ exec (.decByte byte nb) s = .next (s.raise .badcode)) ∧
      (∀ cur es, walkBits s s.cursor bits = .ok (cur, es) →
        (s.outDepth < s.outcnt.toNat + es.length → exec (.decByte byte nb) s = .next (s.raise .outfull)) ∧
        (s.outcnt.toNat + es.length ≤ s.outDepth → Memory.wf s.out = true →
          ∃ t, exec (.decByte byte nb) s = .next t ∧ t.outcnt.toNat = s.outcnt.toNat + es.length ∧
            (∀ j b, es[j]? = some b → t.outByte (s.outcnt.toNat + j) = b) ∧
            t = { s with out := t.out, outcnt := t.outcnt, cursor := cur, decBitcnt := s.decBitcnt + nb.setWidth 32,
                         busy := false, done := true })))

/-- R236: DEC_END. -/
def Obligations.DecEndReportsAPartialCode : Prop :=
  decode 0x52000000#32 = .ok .decEnd ∧
  ∀ s : State, (s.mode ≠ .dec → exec .decEnd s = .next (s.raise .seq)) ∧
    (s.mode = .dec → exec .decEnd s = .next { s with
      decPartial := if s.cursor = s.root then false else true, mode := .idle, busy := false, done := true })

/-- R234: over a tree of two or more leaves, in a good state, every bit sequence is a walk: no E_BADCODE. -/
def Obligations.EveryBitStringWalksATree : Prop :=
  ∀ (s : State) (bits : List Bool), Inv s → s.mode = .dec → 2 ≤ s.nsym.toNat →
    ∃ cur es, walkBits s s.cursor bits = .ok (cur, es)

/-- R237, which the spec marks as its own inference: the round trip. A text that was encoded without error decodes, with the
padding length of PADBITS, to itself. -/
def Obligations.DecodingInvertsEncoding : Prop :=
  ∀ (s t : State) (text : List Byte), s.err = false → s.busy = false → s.treeValid = true → s.codeValid = true →
    s.mode = .idle → OutputBounded s → CodesMatchTree s → (∀ b ∈ text, (s.codeAt b).valid = true) →
    text.length ≤ s.outDepth → issueAll s (encodeCommands text) = some t → t.err = false →
    ∃ u, issueAll t (decodeCommands t.padbits (outputBytes t)) = some u ∧ u.err = false ∧ u.outcnt.toNat = text.length ∧
      outputBytes u = text ∧ u.decPartial = false ∧ u.mode = .idle

/-! ## The bus (spec/20_memory.md, spec/10_state.md) -/

/-- R33-R47, R263: what a read of each register returns: the control registers at any time, the result registers with
BUSY = 0; the numbers of the errors are written out. -/
def Obligations.ReadsReturnTheRegisters : Prop :=
  ∀ s : State, s.memRead 0x000#32 = 0x48554646#32 ∧ s.memRead 0x004#32 = 0#32 ∧ s.memRead 0x008#32 = s.arg0 ∧
    (s.memRead 0x00C#32 = (BitVec.ofBool s.decPartial ++ (match s.mode with | .idle => 0#2 | .enc => 1#2 | .dec => 2#2) ++
      BitVec.ofBool s.codeValid ++ BitVec.ofBool s.treeValid ++ BitVec.ofBool s.err ++ BitVec.ofBool s.done ++
      BitVec.ofBool s.busy : BitVec 8).setWidth 32) ∧
    s.memRead 0x010#32 = (match s.errcode with
      | none => 0#32 | some .illegal => 1#32 | some .seq => 2#32 | some .busy => 3#32 | some .overflow => 4#32
      | some .nocode => 5#32 | some .outfull => 6#32 | some .badcode => 7#32 | some .badarg => 8#32
      | some .codelen => 9#32) ∧
    s.memRead 0x014#32 = s.errcmd ∧
    (s.memRead 0x018#32).toNat = (if s.ieErr then 2 else 0) + (if s.ieDone then 1 else 0) ∧
    (s.memRead 0x01C#32).toNat = 0x00400800 + s.params.outLog2 ∧
    (s.busy = false →
      s.memRead 0x020#32 = s.nsym.setWidth 32 ∧ s.memRead 0x024#32 = s.total ∧ s.memRead 0x028#32 = s.root.setWidth 32 ∧
      s.memRead 0x02C#32 = s.nnodes.setWidth 32 ∧ s.memRead 0x030#32 = s.maxlen.setWidth 32 ∧
      s.memRead 0x034#32 = s.outcnt.setWidth 32 ∧ s.memRead 0x038#32 = s.encBitcnt ∧
      s.memRead 0x03C#32 = s.padbits.setWidth 32 ∧ s.memRead 0x040#32 = s.decBitcnt ∧
      s.memRead 0x044#32 = s.cursor.setWidth 32)

/-- R92, R98: what a read of each window returns with BUSY = 0 where R97 makes it exact, and 0 in the reserved and unmapped
ranges. A bus read is `readOffset` of the aligned offset (R93), the free value the next draw (log entry 4). -/
def Obligations.WindowsShowTheTables : Prop :=
  ∀ (s : State) (free : Word),
    (∀ a : Word, s.memRead a = s.readOffset (a.toNat - a.toNat % 4) (Config.freeWord s.draws)) ∧
    (s.busy = false → ∀ sym : Byte, s.readOffset (0x400 + 4 * sym.toNat) free = s.freqAt sym) ∧
    (s.busy = false → s.treeValid = true → ∀ i : Nat, i < s.nnodes.toNat → i < 511 → ∀ n, n = s.nodeAt (BitVec.ofNat 9 i) →
      s.readOffset (0x1000 + 16 * i) free = n.weight ∧
      (s.readOffset (0x1000 + 16 * i + 4) free).toNat = (if n.leaf then 0x80000000 else 0) + n.sym.toNat ∧
      s.readOffset (0x1000 + 16 * i + 8) free = n.left.setWidth 32 ∧
      s.readOffset (0x1000 + 16 * i + 12) free = n.right.setWidth 32) ∧
    (s.busy = false → s.codeValid = true → ∀ sym : Byte,
      (s.readOffset (0x4000 + 16 * sym.toNat) free).toNat =
        (if (s.codeAt sym).valid then 0x80000000 else 0) + (s.codeAt sym).len.toNat ∧
      s.readOffset (0x4000 + 16 * sym.toNat + 4) free = (s.codeAt sym).bits.extractLsb' 0 32 ∧
      s.readOffset (0x4000 + 16 * sym.toNat + 8) free = (s.codeAt sym).bits.extractLsb' 32 32 ∧
      s.readOffset (0x4000 + 16 * sym.toNat + 12) free = 0#32) ∧
    (s.busy = false → ∀ k lane : Nat, lane < 4 → 4 * k + lane < s.outcnt.toNat → 4 * k + lane < s.outDepth →
      (s.readOffset (0x10000 + 4 * k) free).extractLsb' (8 * lane) 8 = s.outByte (4 * k + lane)) ∧
    (∀ off, off % 4 = 0 → (0x048 ≤ off ∧ off < 0x400) ∨ (0x800 ≤ off ∧ off < 0x1000) ∨ (0x2FF0 ≤ off ∧ off < 0x4000) ∨
      (0x5000 ≤ off ∧ off < 0x10000) ∨ 0x10000 + s.outDepth ≤ off → s.readOffset off free = 0#32)

/-- R97: the unspecified reads are free draws, one draw for each read, and every other read does not depend on the draw; in an
OUT word the lanes below OUTCNT do not. That the word at +12 of a CODE entry is unspecified with the others while CODE_VALID = 0
is log entry 12. -/
def Obligations.UnspecifiedReadsAreFreeDraws : Prop :=
  ∀ (s : State) (off : Nat) (f g : Word), off % 4 = 0 →
    (s.busy = true → (0x020 ≤ off ∧ off < 0x048) ∨ (0x400 ≤ off ∧ off < 0x800) ∨ (0x1000 ≤ off ∧ off < 0x2FF0) ∨
      (0x4000 ≤ off ∧ off < 0x5000) ∨ (0x10000 ≤ off ∧ off < 0x10000 + s.outDepth) → s.readOffset off f = f) ∧
    (0x1000 ≤ off → off < 0x2FF0 → s.treeValid = false ∨ s.nnodes.toNat ≤ (off - 0x1000) / 16 → s.readOffset off f = f) ∧
    (0x4000 ≤ off → off < 0x5000 → s.codeValid = false → s.readOffset off f = f) ∧
    (s.busy = false → 0x10000 ≤ off → off < 0x10000 + s.outDepth → ∀ lane, lane < 4 →
      (off - 0x10000 + lane < s.outcnt.toNat →
        (s.readOffset off f).extractLsb' (8 * lane) 8 = s.outByte (off - 0x10000 + lane)) ∧
      (s.outcnt.toNat ≤ off - 0x10000 + lane →
        (s.readOffset off f).extractLsb' (8 * lane) 8 = f.extractLsb' (8 * lane) 8)) ∧
    (s.busy = false → off < 0x800 → s.readOffset off f = s.readOffset off g) ∧
    (s.busy = false → s.treeValid = true → 0x1000 ≤ off → off < 0x2FF0 → (off - 0x1000) / 16 < s.nnodes.toNat →
      s.readOffset off f = s.readOffset off g) ∧
    (s.busy = false → s.codeValid = true → 0x4000 ≤ off → off < 0x5000 → s.readOffset off f = s.readOffset off g) ∧
    (off < 0x020 ∨ (0x048 ≤ off ∧ off < 0x400) ∨ (0x800 ≤ off ∧ off < 0x1000) ∨ (0x2FF0 ≤ off ∧ off < 0x4000) ∨
      (0x5000 ≤ off ∧ off < 0x10000) ∨ 0x10000 + s.outDepth ≤ off → s.readOffset off f = s.readOffset off g)

/-- R94, R37, R40: a write acts at CMD, ARG0, STATUS bit 1 and CTRL bits 1:0, and is ignored everywhere else. -/
def Obligations.WritesActAtFourOffsets : Prop :=
  ∀ (s : State) (addr v : Word),
    (alignAddr addr = 0x008 → s.memWrite addr v = { s with arg0 := v }) ∧
    (alignAddr addr = 0x00C → s.memWrite addr v = { s with done := if v.getLsbD 1 then false else s.done }) ∧
    (alignAddr addr = 0x018 → s.memWrite addr v = { s with ieDone := v.getLsbD 0, ieErr := v.getLsbD 1 }) ∧
    (alignAddr addr ≠ 0x004 → alignAddr addr ≠ 0x008 → alignAddr addr ≠ 0x00C → alignAddr addr ≠ 0x018 →
      s.memWrite addr v = s)

/-- R93, R95: a read changes nothing of the core (`resp` and `draws` are the model's), and the two low address bits reach the
same word. -/
def Obligations.ReadsHaveNoSideEffect : Prop :=
  ∀ (s : State) (a b v : Word),
    (s.busAccess (.read a) = { s with resp := .data (s.memRead a), draws := s.draws + 1 }) ∧
    (a.extractLsb' 2 30 = b.extractLsb' 2 30 → s.memRead a = s.memRead b ∧ s.memWrite a v = s.memWrite b v)

/-- R74 with R52, R55, R56 (R74 is an inference of the spec's own): no read shows an entry of NODE, CODE or OUT that the spec
calls unspecified; two states that differ only there answer every read alike. -/
def Obligations.UnspecifiedContentsAreNotRead : Prop :=
  ∀ (s : State) (node : NodeTable) (code : CodeTable) (out : Memory),
    (s.treeValid = true → ∀ i, i < s.nnodes.toNat → node.get? i = s.node.get? i) →
    (s.codeValid = true → code = s.code) →
    (∀ j, j < s.outcnt.toNat → Memory.read out j = s.outByte j) →
    ∀ off free, ({ s with node := node, code := code, out := out } : State).readOffset off free = s.readOffset off free

/-! ## Reset (spec/70_reset_and_hazards.md) -/

/-- R300: a clk edge with rst_n low has the effect of the RESET command on all of the core's state, whatever it was doing. -/
def Obligations.ResetPinPerformsResetAll : Prop :=
  ∀ s : State, s.rstN = false → s.nextInput = .clk ∨ s.nextInput = .core →
    ∃ t, exec .reset s = .next t ∧
      step s = .next { t with rstCycles := s.rstCycles + 1, inputs := s.inputs.tail, resp := .none }

/-- R302 and log entries 8 and 9: a pulse shorter than RST_MIN stops the model with a fault, a bus access while rst_n is low
is refused by name, and a long enough pulse ends in the reset state. -/
def Obligations.ResetPulseHasALength : Prop :=
  ∀ (s : State) (op : BusOp), s.rstN = false →
    (s.nextInput = .rstHigh → s.rstCycles < s.params.rstMin → step s = .fault .resetPulseTooShort) ∧
    (s.nextInput = .bus op → step s = .refused .busAccessInReset) ∧
    (s.nextInput = .rstHigh → s.params.rstMin ≤ s.rstCycles →
      step s = .next { s with rstN := true, rstCycles := 0, inputs := s.inputs.tail, resp := .none })

/-- R70-R73 hold after reset (log entries 5, 6 and 17 name the values the spec leaves open). -/
def Obligations.ResetMeetsTheInvariants : Prop := Inv State.reset ∧ ∀ s : State, Memory.wf s.out = true → Memory.below s.outDepth s.out = true → Inv s.resetAll

/-! ## Invariants every step keeps (spec/10_state.md section 6, inferences of the spec's own) -/

/-- R70: NSYM and TOTAL agree with FREQ after every step. -/
def Obligations.FreqConsistentKept : Prop := ∀ s t : State, FreqConsistent s → step s = .next t → FreqConsistent t

/-- R71: the phase flags stay ordered. -/
def Obligations.PhaseOrderedKept : Prop := ∀ s t : State, PhaseOrdered s → step s = .next t → PhaseOrdered t

/-- R73, R56 and R72: OUTCNT stays within OUT_DEPTH, OUT keeps its canonical form below OUT_DEPTH, and the bit packer stays in step
with ENC_BITCNT. -/
def Obligations.OutputAndPackerKept : Prop :=
  ∀ s t : State, step s = .next t → (OutputBounded s → OutputBounded t) ∧ (EncoderInStep s → EncoderInStep t)

/-- R73, R151: ERR = 1 exactly when ERRCODE != 0, and RESET is never the command in flight. -/
def Obligations.ErrorsAndLatchKept : Prop :=
  ∀ s t : State, ErrorsConsistent s → LatchHoldsNoReset s → step s = .next t → ErrorsConsistent t ∧ LatchHoldsNoReset t

/-- R71, R107: the tree stays the one BUILD makes of FREQ, and the codes those GEN makes of the tree. -/
def Obligations.TreeAndCodesKept : Prop :=
  ∀ s t : State, PhaseOrdered s → TreeIsBuilt s → CodesAreGenerated s → step s = .next t →
    TreeIsBuilt t ∧ CodesAreGenerated t

/-- R70-R73 together: every step keeps the invariants. -/
def Obligations.EveryStepKeepsTheInvariants : Prop := ∀ s t : State, Inv s → step s = .next t → Inv t
end

