-- ==== Sys2Proof/Laws/Bus.lean ====
section
/-! SUPPORT. The regions of the address map (R33, R92), and the lanes of an OUT word. -/

namespace Sys2Proof.Machine

theorem regionOf_control {s : State} {off : Nat} (h : off < 0x020) : s.regionOf off = .control := by
  unfold State.regionOf; rw [if_pos h]

theorem regionOf_result {s : State} {off : Nat} (h1 : 0x020 ≤ off) (h2 : off < 0x048) : s.regionOf off = .result := by
  unfold State.regionOf; rw [if_neg (by omega), if_pos h2]

theorem regionOf_freq {s : State} {off : Nat} (h1 : 0x400 ≤ off) (h2 : off < 0x800) : s.regionOf off = .freq := by
  unfold State.regionOf; iterate 3 rw [if_neg (by omega)]
  rw [if_pos h2]

theorem regionOf_node {s : State} {off : Nat} (h1 : 0x1000 ≤ off) (h2 : off < 0x2FF0) : s.regionOf off = .node := by
  unfold State.regionOf; iterate 5 rw [if_neg (by omega)]
  rw [if_pos h2]

theorem regionOf_code {s : State} {off : Nat} (h1 : 0x4000 ≤ off) (h2 : off < 0x5000) : s.regionOf off = .code := by
  unfold State.regionOf; iterate 7 rw [if_neg (by omega)]
  rw [if_pos h2]

theorem regionOf_out {s : State} {off : Nat} (h1 : 0x10000 ≤ off) (h2 : off < 0x10000 + s.outDepth) :
    s.regionOf off = .out := by
  unfold State.regionOf; iterate 9 rw [if_neg (by omega)]
  rw [if_pos h2]

/-- The reserved and unmapped ranges (R92). -/
theorem regionOf_reserved {s : State} {off : Nat}
    (h : (0x048 ≤ off ∧ off < 0x400) ∨ (0x800 ≤ off ∧ off < 0x1000) ∨ (0x2FF0 ≤ off ∧ off < 0x4000) ∨
      (0x5000 ≤ off ∧ off < 0x10000) ∨ 0x10000 + s.outDepth ≤ off) : s.regionOf off = .reserved := by
  unfold State.regionOf
  repeat' split
  all_goals first | rfl | omega

/-- The four bytes of a word by lane, lane 0 in bits 7:0. -/
theorem extractLsb'_lane (a b c d : Byte) (lane : Nat) (h : lane < 4) :
    (a ++ b ++ c ++ d : BitVec 32).extractLsb' (8 * lane) 8 =
      if lane = 0 then d else if lane = 1 then c else if lane = 2 then b else a := by
  have h4 : lane = 0 ∨ lane = 1 ∨ lane = 2 ∨ lane = 3 := by omega
  have key : ∀ j, (a ++ b ++ c ++ d : BitVec 32).getLsbD j = if j < 8 then d.getLsbD j else if j < 16 then c.getLsbD (j - 8)
      else if j < 24 then b.getLsbD (j - 16) else a.getLsbD (j - 24) := by
    intro j
    erw [BitVec.getLsbD_append, BitVec.getLsbD_append, BitVec.getLsbD_append]
    rw [Nat.sub_sub, Nat.sub_sub]
    split_ifs <;> first | rfl | omega
  rcases h4 with rfl | rfl | rfl | rfl <;> ext i hi <;>
    rw [BitVec.getElem_extractLsb', key, ← BitVec.getLsbD_eq_getElem]
  · rw [if_pos (by omega)]; simp
  · rw [if_neg (by omega), if_pos (by omega), Nat.add_sub_cancel_left]; rfl
  · rw [if_neg (by omega), if_neg (by omega), if_pos (by omega), Nat.add_sub_cancel_left]; rfl
  · rw [if_neg (by omega), if_neg (by omega), if_neg (by omega), Nat.add_sub_cancel_left]; rfl

/-- Lane by lane, an OUT word is the byte or the free lane (R97 (d), R98). -/
theorem readOut_lane (s : State) (k lane : Nat) (free : Word) (h : lane < 4) :
    (s.readOut k free).extractLsb' (8 * lane) 8 = s.outLane (4 * k + lane) lane free := by
  have h4 : lane = 0 ∨ lane = 1 ∨ lane = 2 ∨ lane = 3 := by omega
  unfold State.readOut
  rw [extractLsb'_lane _ _ _ _ _ h]
  rcases h4 with rfl | rfl | rfl | rfl <;> rfl

end Sys2Proof.Machine
end

