-- ==== Sys2Proof/Laws/Decode.lean ====
section
/-! SUPPORT. The opcode map: no word is hit by two rows (R125), and the row of a word that decodes. -/

namespace Sys2Proof

/-- No two rows of the opcode map share a word: where both masks look, the matches differ (R125). -/
theorem opcodeMap_disjoint :
    opcodeMap.Pairwise (fun a b => (a.pattern &&& (a.mask &&& b.mask)) ≠ (b.pattern &&& (a.mask &&& b.mask))) := by
  decide +kernel

/-- A word that decodes is hit by the row of its command, and carries its operands (R126). -/
theorem decode_ok {w : Word} {i : Instr} (h : decode w = .ok i) :
    ∃ r ∈ opcodeMap, r.hits w = true ∧ i = r.opcode.withOperands w := by
  unfold decode at h
  split at h
  · next r hr =>
    have hh : (fun r : Row => r.hits w) r = true := List.find?_some (p := fun r : Row => r.hits w) hr
    exact ⟨r, List.mem_of_find?_eq_some hr, hh, by simpa using h.symm⟩
  · cases h

/-- A word that does not decode is hit by no row (R127). -/
theorem decode_error {w : Word} {e : DecodeError} (h : decode w = .error e) :
    (∀ r ∈ opcodeMap, r.hits w = false) ∧ e = illegalReason w := by
  unfold decode at h
  split at h
  · cases h
  · next hn =>
    refine ⟨fun r hr => ?_, by simpa using h.symm⟩
    have := List.find?_eq_none.mp hn r hr
    simpa using this

end Sys2Proof
end

