-- ==== Sys2Proof/Laws/State.lean ====
section
/-! SUPPORT. For each update of the state, one lemma per field, so that no proof unfolds a record update. -/

namespace Sys2Proof.Machine

/-! ## complete: the end of a core step (R262) -/

@[simp] theorem State.complete_arg0 (s : State) : (s.complete).arg0 = s.arg0 := rfl
@[simp] theorem State.complete_busy (s : State) : (s.complete).busy = false := rfl
@[simp] theorem State.complete_done (s : State) : (s.complete).done = true := rfl
@[simp] theorem State.complete_err (s : State) : (s.complete).err = s.err := rfl
@[simp] theorem State.complete_treeValid (s : State) : (s.complete).treeValid = s.treeValid := rfl
@[simp] theorem State.complete_codeValid (s : State) : (s.complete).codeValid = s.codeValid := rfl
@[simp] theorem State.complete_mode (s : State) : (s.complete).mode = s.mode := rfl
@[simp] theorem State.complete_decPartial (s : State) : (s.complete).decPartial = s.decPartial := rfl
@[simp] theorem State.complete_errcode (s : State) : (s.complete).errcode = s.errcode := rfl
@[simp] theorem State.complete_errcmd (s : State) : (s.complete).errcmd = s.errcmd := rfl
@[simp] theorem State.complete_ieDone (s : State) : (s.complete).ieDone = s.ieDone := rfl
@[simp] theorem State.complete_ieErr (s : State) : (s.complete).ieErr = s.ieErr := rfl
@[simp] theorem State.complete_nsym (s : State) : (s.complete).nsym = s.nsym := rfl
@[simp] theorem State.complete_total (s : State) : (s.complete).total = s.total := rfl
@[simp] theorem State.complete_root (s : State) : (s.complete).root = s.root := rfl
@[simp] theorem State.complete_nnodes (s : State) : (s.complete).nnodes = s.nnodes := rfl
@[simp] theorem State.complete_maxlen (s : State) : (s.complete).maxlen = s.maxlen := rfl
@[simp] theorem State.complete_outcnt (s : State) : (s.complete).outcnt = s.outcnt := rfl
@[simp] theorem State.complete_encBitcnt (s : State) : (s.complete).encBitcnt = s.encBitcnt := rfl
@[simp] theorem State.complete_padbits (s : State) : (s.complete).padbits = s.padbits := rfl
@[simp] theorem State.complete_decBitcnt (s : State) : (s.complete).decBitcnt = s.decBitcnt := rfl
@[simp] theorem State.complete_cursor (s : State) : (s.complete).cursor = s.cursor := rfl
@[simp] theorem State.complete_freq (s : State) : (s.complete).freq = s.freq := rfl
@[simp] theorem State.complete_node (s : State) : (s.complete).node = s.node := rfl
@[simp] theorem State.complete_code (s : State) : (s.complete).code = s.code := rfl
@[simp] theorem State.complete_out (s : State) : (s.complete).out = s.out := rfl
@[simp] theorem State.complete_pend (s : State) : (s.complete).pend = s.pend := rfl
@[simp] theorem State.complete_parg (s : State) : (s.complete).parg = s.parg := rfl
@[simp] theorem State.complete_acc (s : State) : (s.complete).acc = s.acc := rfl
@[simp] theorem State.complete_accN (s : State) : (s.complete).accN = s.accN := rfl
@[simp] theorem State.complete_params (s : State) : (s.complete).params = s.params := rfl
@[simp] theorem State.complete_rstN (s : State) : (s.complete).rstN = s.rstN := rfl
@[simp] theorem State.complete_rstCycles (s : State) : (s.complete).rstCycles = s.rstCycles := rfl
@[simp] theorem State.complete_resp (s : State) : (s.complete).resp = s.resp := rfl
@[simp] theorem State.complete_inputs (s : State) : (s.complete).inputs = s.inputs := rfl
@[simp] theorem State.complete_draws (s : State) : (s.complete).draws = s.draws := rfl

/-! ## recordError: RecordError (R264) -/

@[simp] theorem State.recordError_arg0 (s : State) (e : ErrCode) (w : Word) : (s.recordError e w).arg0 = s.arg0 := rfl
@[simp] theorem State.recordError_busy (s : State) (e : ErrCode) (w : Word) : (s.recordError e w).busy = s.busy := rfl
@[simp] theorem State.recordError_done (s : State) (e : ErrCode) (w : Word) : (s.recordError e w).done = s.done := rfl
@[simp] theorem State.recordError_err (s : State) (e : ErrCode) (w : Word) : (s.recordError e w).err = true := rfl
@[simp] theorem State.recordError_treeValid (s : State) (e : ErrCode) (w : Word) : (s.recordError e w).treeValid = s.treeValid := rfl
@[simp] theorem State.recordError_codeValid (s : State) (e : ErrCode) (w : Word) : (s.recordError e w).codeValid = s.codeValid := rfl
@[simp] theorem State.recordError_mode (s : State) (e : ErrCode) (w : Word) : (s.recordError e w).mode = s.mode := rfl
@[simp] theorem State.recordError_decPartial (s : State) (e : ErrCode) (w : Word) : (s.recordError e w).decPartial = s.decPartial := rfl
@[simp] theorem State.recordError_errcode (s : State) (e : ErrCode) (w : Word) : (s.recordError e w).errcode = (if s.errcode = none then some e else s.errcode) := rfl
@[simp] theorem State.recordError_errcmd (s : State) (e : ErrCode) (w : Word) : (s.recordError e w).errcmd = (if s.errcode = none then w else s.errcmd) := rfl
@[simp] theorem State.recordError_ieDone (s : State) (e : ErrCode) (w : Word) : (s.recordError e w).ieDone = s.ieDone := rfl
@[simp] theorem State.recordError_ieErr (s : State) (e : ErrCode) (w : Word) : (s.recordError e w).ieErr = s.ieErr := rfl
@[simp] theorem State.recordError_nsym (s : State) (e : ErrCode) (w : Word) : (s.recordError e w).nsym = s.nsym := rfl
@[simp] theorem State.recordError_total (s : State) (e : ErrCode) (w : Word) : (s.recordError e w).total = s.total := rfl
@[simp] theorem State.recordError_root (s : State) (e : ErrCode) (w : Word) : (s.recordError e w).root = s.root := rfl
@[simp] theorem State.recordError_nnodes (s : State) (e : ErrCode) (w : Word) : (s.recordError e w).nnodes = s.nnodes := rfl
@[simp] theorem State.recordError_maxlen (s : State) (e : ErrCode) (w : Word) : (s.recordError e w).maxlen = s.maxlen := rfl
@[simp] theorem State.recordError_outcnt (s : State) (e : ErrCode) (w : Word) : (s.recordError e w).outcnt = s.outcnt := rfl
@[simp] theorem State.recordError_encBitcnt (s : State) (e : ErrCode) (w : Word) : (s.recordError e w).encBitcnt = s.encBitcnt := rfl
@[simp] theorem State.recordError_padbits (s : State) (e : ErrCode) (w : Word) : (s.recordError e w).padbits = s.padbits := rfl
@[simp] theorem State.recordError_decBitcnt (s : State) (e : ErrCode) (w : Word) : (s.recordError e w).decBitcnt = s.decBitcnt := rfl
@[simp] theorem State.recordError_cursor (s : State) (e : ErrCode) (w : Word) : (s.recordError e w).cursor = s.cursor := rfl
@[simp] theorem State.recordError_freq (s : State) (e : ErrCode) (w : Word) : (s.recordError e w).freq = s.freq := rfl
@[simp] theorem State.recordError_node (s : State) (e : ErrCode) (w : Word) : (s.recordError e w).node = s.node := rfl
@[simp] theorem State.recordError_code (s : State) (e : ErrCode) (w : Word) : (s.recordError e w).code = s.code := rfl
@[simp] theorem State.recordError_out (s : State) (e : ErrCode) (w : Word) : (s.recordError e w).out = s.out := rfl
@[simp] theorem State.recordError_pend (s : State) (e : ErrCode) (w : Word) : (s.recordError e w).pend = s.pend := rfl
@[simp] theorem State.recordError_parg (s : State) (e : ErrCode) (w : Word) : (s.recordError e w).parg = s.parg := rfl
@[simp] theorem State.recordError_acc (s : State) (e : ErrCode) (w : Word) : (s.recordError e w).acc = s.acc := rfl
@[simp] theorem State.recordError_accN (s : State) (e : ErrCode) (w : Word) : (s.recordError e w).accN = s.accN := rfl
@[simp] theorem State.recordError_params (s : State) (e : ErrCode) (w : Word) : (s.recordError e w).params = s.params := rfl
@[simp] theorem State.recordError_rstN (s : State) (e : ErrCode) (w : Word) : (s.recordError e w).rstN = s.rstN := rfl
@[simp] theorem State.recordError_rstCycles (s : State) (e : ErrCode) (w : Word) : (s.recordError e w).rstCycles = s.rstCycles := rfl
@[simp] theorem State.recordError_resp (s : State) (e : ErrCode) (w : Word) : (s.recordError e w).resp = s.resp := rfl
@[simp] theorem State.recordError_inputs (s : State) (e : ErrCode) (w : Word) : (s.recordError e w).inputs = s.inputs := rfl
@[simp] theorem State.recordError_draws (s : State) (e : ErrCode) (w : Word) : (s.recordError e w).draws = s.draws := rfl

/-! ## raise: taking an error (R262, R264) -/

@[simp] theorem State.raise_arg0 (s : State) (e : ErrCode) : (s.raise e).arg0 = s.arg0 := rfl
@[simp] theorem State.raise_busy (s : State) (e : ErrCode) : (s.raise e).busy = false := rfl
@[simp] theorem State.raise_done (s : State) (e : ErrCode) : (s.raise e).done = true := rfl
@[simp] theorem State.raise_err (s : State) (e : ErrCode) : (s.raise e).err = true := rfl
@[simp] theorem State.raise_treeValid (s : State) (e : ErrCode) : (s.raise e).treeValid = s.treeValid := rfl
@[simp] theorem State.raise_codeValid (s : State) (e : ErrCode) : (s.raise e).codeValid = s.codeValid := rfl
@[simp] theorem State.raise_mode (s : State) (e : ErrCode) : (s.raise e).mode = s.mode := rfl
@[simp] theorem State.raise_decPartial (s : State) (e : ErrCode) : (s.raise e).decPartial = s.decPartial := rfl
@[simp] theorem State.raise_errcode (s : State) (e : ErrCode) : (s.raise e).errcode = (if s.errcode = none then some e else s.errcode) := rfl
@[simp] theorem State.raise_errcmd (s : State) (e : ErrCode) : (s.raise e).errcmd = (if s.errcode = none then s.pend else s.errcmd) := rfl
@[simp] theorem State.raise_ieDone (s : State) (e : ErrCode) : (s.raise e).ieDone = s.ieDone := rfl
@[simp] theorem State.raise_ieErr (s : State) (e : ErrCode) : (s.raise e).ieErr = s.ieErr := rfl
@[simp] theorem State.raise_nsym (s : State) (e : ErrCode) : (s.raise e).nsym = s.nsym := rfl
@[simp] theorem State.raise_total (s : State) (e : ErrCode) : (s.raise e).total = s.total := rfl
@[simp] theorem State.raise_root (s : State) (e : ErrCode) : (s.raise e).root = s.root := rfl
@[simp] theorem State.raise_nnodes (s : State) (e : ErrCode) : (s.raise e).nnodes = s.nnodes := rfl
@[simp] theorem State.raise_maxlen (s : State) (e : ErrCode) : (s.raise e).maxlen = s.maxlen := rfl
@[simp] theorem State.raise_outcnt (s : State) (e : ErrCode) : (s.raise e).outcnt = s.outcnt := rfl
@[simp] theorem State.raise_encBitcnt (s : State) (e : ErrCode) : (s.raise e).encBitcnt = s.encBitcnt := rfl
@[simp] theorem State.raise_padbits (s : State) (e : ErrCode) : (s.raise e).padbits = s.padbits := rfl
@[simp] theorem State.raise_decBitcnt (s : State) (e : ErrCode) : (s.raise e).decBitcnt = s.decBitcnt := rfl
@[simp] theorem State.raise_cursor (s : State) (e : ErrCode) : (s.raise e).cursor = s.cursor := rfl
@[simp] theorem State.raise_freq (s : State) (e : ErrCode) : (s.raise e).freq = s.freq := rfl
@[simp] theorem State.raise_node (s : State) (e : ErrCode) : (s.raise e).node = s.node := rfl
@[simp] theorem State.raise_code (s : State) (e : ErrCode) : (s.raise e).code = s.code := rfl
@[simp] theorem State.raise_out (s : State) (e : ErrCode) : (s.raise e).out = s.out := rfl
@[simp] theorem State.raise_pend (s : State) (e : ErrCode) : (s.raise e).pend = s.pend := rfl
@[simp] theorem State.raise_parg (s : State) (e : ErrCode) : (s.raise e).parg = s.parg := rfl
@[simp] theorem State.raise_acc (s : State) (e : ErrCode) : (s.raise e).acc = s.acc := rfl
@[simp] theorem State.raise_accN (s : State) (e : ErrCode) : (s.raise e).accN = s.accN := rfl
@[simp] theorem State.raise_params (s : State) (e : ErrCode) : (s.raise e).params = s.params := rfl
@[simp] theorem State.raise_rstN (s : State) (e : ErrCode) : (s.raise e).rstN = s.rstN := rfl
@[simp] theorem State.raise_rstCycles (s : State) (e : ErrCode) : (s.raise e).rstCycles = s.rstCycles := rfl
@[simp] theorem State.raise_resp (s : State) (e : ErrCode) : (s.raise e).resp = s.resp := rfl
@[simp] theorem State.raise_inputs (s : State) (e : ErrCode) : (s.raise e).inputs = s.inputs := rfl
@[simp] theorem State.raise_draws (s : State) (e : ErrCode) : (s.raise e).draws = s.draws := rfl

/-! ## latch: acceptance of a command (R261 case 4) -/

@[simp] theorem State.latch_arg0 (s : State) (w : Word) : (s.latch w).arg0 = s.arg0 := rfl
@[simp] theorem State.latch_busy (s : State) (w : Word) : (s.latch w).busy = true := rfl
@[simp] theorem State.latch_done (s : State) (w : Word) : (s.latch w).done = false := rfl
@[simp] theorem State.latch_err (s : State) (w : Word) : (s.latch w).err = s.err := rfl
@[simp] theorem State.latch_treeValid (s : State) (w : Word) : (s.latch w).treeValid = s.treeValid := rfl
@[simp] theorem State.latch_codeValid (s : State) (w : Word) : (s.latch w).codeValid = s.codeValid := rfl
@[simp] theorem State.latch_mode (s : State) (w : Word) : (s.latch w).mode = s.mode := rfl
@[simp] theorem State.latch_decPartial (s : State) (w : Word) : (s.latch w).decPartial = s.decPartial := rfl
@[simp] theorem State.latch_errcode (s : State) (w : Word) : (s.latch w).errcode = s.errcode := rfl
@[simp] theorem State.latch_errcmd (s : State) (w : Word) : (s.latch w).errcmd = s.errcmd := rfl
@[simp] theorem State.latch_ieDone (s : State) (w : Word) : (s.latch w).ieDone = s.ieDone := rfl
@[simp] theorem State.latch_ieErr (s : State) (w : Word) : (s.latch w).ieErr = s.ieErr := rfl
@[simp] theorem State.latch_nsym (s : State) (w : Word) : (s.latch w).nsym = s.nsym := rfl
@[simp] theorem State.latch_total (s : State) (w : Word) : (s.latch w).total = s.total := rfl
@[simp] theorem State.latch_root (s : State) (w : Word) : (s.latch w).root = s.root := rfl
@[simp] theorem State.latch_nnodes (s : State) (w : Word) : (s.latch w).nnodes = s.nnodes := rfl
@[simp] theorem State.latch_maxlen (s : State) (w : Word) : (s.latch w).maxlen = s.maxlen := rfl
@[simp] theorem State.latch_outcnt (s : State) (w : Word) : (s.latch w).outcnt = s.outcnt := rfl
@[simp] theorem State.latch_encBitcnt (s : State) (w : Word) : (s.latch w).encBitcnt = s.encBitcnt := rfl
@[simp] theorem State.latch_padbits (s : State) (w : Word) : (s.latch w).padbits = s.padbits := rfl
@[simp] theorem State.latch_decBitcnt (s : State) (w : Word) : (s.latch w).decBitcnt = s.decBitcnt := rfl
@[simp] theorem State.latch_cursor (s : State) (w : Word) : (s.latch w).cursor = s.cursor := rfl
@[simp] theorem State.latch_freq (s : State) (w : Word) : (s.latch w).freq = s.freq := rfl
@[simp] theorem State.latch_node (s : State) (w : Word) : (s.latch w).node = s.node := rfl
@[simp] theorem State.latch_code (s : State) (w : Word) : (s.latch w).code = s.code := rfl
@[simp] theorem State.latch_out (s : State) (w : Word) : (s.latch w).out = s.out := rfl
@[simp] theorem State.latch_pend (s : State) (w : Word) : (s.latch w).pend = w := rfl
@[simp] theorem State.latch_parg (s : State) (w : Word) : (s.latch w).parg = s.arg0 := rfl
@[simp] theorem State.latch_acc (s : State) (w : Word) : (s.latch w).acc = s.acc := rfl
@[simp] theorem State.latch_accN (s : State) (w : Word) : (s.latch w).accN = s.accN := rfl
@[simp] theorem State.latch_params (s : State) (w : Word) : (s.latch w).params = s.params := rfl
@[simp] theorem State.latch_rstN (s : State) (w : Word) : (s.latch w).rstN = s.rstN := rfl
@[simp] theorem State.latch_rstCycles (s : State) (w : Word) : (s.latch w).rstCycles = s.rstCycles := rfl
@[simp] theorem State.latch_resp (s : State) (w : Word) : (s.latch w).resp = s.resp := rfl
@[simp] theorem State.latch_inputs (s : State) (w : Word) : (s.latch w).inputs = s.inputs := rfl
@[simp] theorem State.latch_draws (s : State) (w : Word) : (s.latch w).draws = s.draws := rfl

/-! ## emit: a byte into OUT (R213, R232) -/

@[simp] theorem State.emit_arg0 (s : State) (b : Byte) : (s.emit b).arg0 = s.arg0 := rfl
@[simp] theorem State.emit_busy (s : State) (b : Byte) : (s.emit b).busy = s.busy := rfl
@[simp] theorem State.emit_done (s : State) (b : Byte) : (s.emit b).done = s.done := rfl
@[simp] theorem State.emit_err (s : State) (b : Byte) : (s.emit b).err = s.err := rfl
@[simp] theorem State.emit_treeValid (s : State) (b : Byte) : (s.emit b).treeValid = s.treeValid := rfl
@[simp] theorem State.emit_codeValid (s : State) (b : Byte) : (s.emit b).codeValid = s.codeValid := rfl
@[simp] theorem State.emit_mode (s : State) (b : Byte) : (s.emit b).mode = s.mode := rfl
@[simp] theorem State.emit_decPartial (s : State) (b : Byte) : (s.emit b).decPartial = s.decPartial := rfl
@[simp] theorem State.emit_errcode (s : State) (b : Byte) : (s.emit b).errcode = s.errcode := rfl
@[simp] theorem State.emit_errcmd (s : State) (b : Byte) : (s.emit b).errcmd = s.errcmd := rfl
@[simp] theorem State.emit_ieDone (s : State) (b : Byte) : (s.emit b).ieDone = s.ieDone := rfl
@[simp] theorem State.emit_ieErr (s : State) (b : Byte) : (s.emit b).ieErr = s.ieErr := rfl
@[simp] theorem State.emit_nsym (s : State) (b : Byte) : (s.emit b).nsym = s.nsym := rfl
@[simp] theorem State.emit_total (s : State) (b : Byte) : (s.emit b).total = s.total := rfl
@[simp] theorem State.emit_root (s : State) (b : Byte) : (s.emit b).root = s.root := rfl
@[simp] theorem State.emit_nnodes (s : State) (b : Byte) : (s.emit b).nnodes = s.nnodes := rfl
@[simp] theorem State.emit_maxlen (s : State) (b : Byte) : (s.emit b).maxlen = s.maxlen := rfl
@[simp] theorem State.emit_outcnt (s : State) (b : Byte) : (s.emit b).outcnt = s.outcnt + 1#17 := rfl
@[simp] theorem State.emit_encBitcnt (s : State) (b : Byte) : (s.emit b).encBitcnt = s.encBitcnt := rfl
@[simp] theorem State.emit_padbits (s : State) (b : Byte) : (s.emit b).padbits = s.padbits := rfl
@[simp] theorem State.emit_decBitcnt (s : State) (b : Byte) : (s.emit b).decBitcnt = s.decBitcnt := rfl
@[simp] theorem State.emit_cursor (s : State) (b : Byte) : (s.emit b).cursor = s.cursor := rfl
@[simp] theorem State.emit_freq (s : State) (b : Byte) : (s.emit b).freq = s.freq := rfl
@[simp] theorem State.emit_node (s : State) (b : Byte) : (s.emit b).node = s.node := rfl
@[simp] theorem State.emit_code (s : State) (b : Byte) : (s.emit b).code = s.code := rfl
@[simp] theorem State.emit_out (s : State) (b : Byte) : (s.emit b).out = Memory.write s.out s.outcnt.toNat b := rfl
@[simp] theorem State.emit_pend (s : State) (b : Byte) : (s.emit b).pend = s.pend := rfl
@[simp] theorem State.emit_parg (s : State) (b : Byte) : (s.emit b).parg = s.parg := rfl
@[simp] theorem State.emit_acc (s : State) (b : Byte) : (s.emit b).acc = s.acc := rfl
@[simp] theorem State.emit_accN (s : State) (b : Byte) : (s.emit b).accN = s.accN := rfl
@[simp] theorem State.emit_params (s : State) (b : Byte) : (s.emit b).params = s.params := rfl
@[simp] theorem State.emit_rstN (s : State) (b : Byte) : (s.emit b).rstN = s.rstN := rfl
@[simp] theorem State.emit_rstCycles (s : State) (b : Byte) : (s.emit b).rstCycles = s.rstCycles := rfl
@[simp] theorem State.emit_resp (s : State) (b : Byte) : (s.emit b).resp = s.resp := rfl
@[simp] theorem State.emit_inputs (s : State) (b : Byte) : (s.emit b).inputs = s.inputs := rfl
@[simp] theorem State.emit_draws (s : State) (b : Byte) : (s.emit b).draws = s.draws := rfl

/-! ## setFreq: a count written (R161, R162) -/

@[simp] theorem State.setFreq_arg0 (s : State) (sym : Byte) (n : Word) : (s.setFreq sym n).arg0 = s.arg0 := rfl
@[simp] theorem State.setFreq_busy (s : State) (sym : Byte) (n : Word) : (s.setFreq sym n).busy = s.busy := rfl
@[simp] theorem State.setFreq_done (s : State) (sym : Byte) (n : Word) : (s.setFreq sym n).done = s.done := rfl
@[simp] theorem State.setFreq_err (s : State) (sym : Byte) (n : Word) : (s.setFreq sym n).err = s.err := rfl
@[simp] theorem State.setFreq_treeValid (s : State) (sym : Byte) (n : Word) : (s.setFreq sym n).treeValid = s.treeValid := rfl
@[simp] theorem State.setFreq_codeValid (s : State) (sym : Byte) (n : Word) : (s.setFreq sym n).codeValid = s.codeValid := rfl
@[simp] theorem State.setFreq_mode (s : State) (sym : Byte) (n : Word) : (s.setFreq sym n).mode = s.mode := rfl
@[simp] theorem State.setFreq_decPartial (s : State) (sym : Byte) (n : Word) : (s.setFreq sym n).decPartial = s.decPartial := rfl
@[simp] theorem State.setFreq_errcode (s : State) (sym : Byte) (n : Word) : (s.setFreq sym n).errcode = s.errcode := rfl
@[simp] theorem State.setFreq_errcmd (s : State) (sym : Byte) (n : Word) : (s.setFreq sym n).errcmd = s.errcmd := rfl
@[simp] theorem State.setFreq_ieDone (s : State) (sym : Byte) (n : Word) : (s.setFreq sym n).ieDone = s.ieDone := rfl
@[simp] theorem State.setFreq_ieErr (s : State) (sym : Byte) (n : Word) : (s.setFreq sym n).ieErr = s.ieErr := rfl
@[simp] theorem State.setFreq_nsym (s : State) (sym : Byte) (n : Word) : (s.setFreq sym n).nsym = s.nsym := rfl
@[simp] theorem State.setFreq_total (s : State) (sym : Byte) (n : Word) : (s.setFreq sym n).total = s.total := rfl
@[simp] theorem State.setFreq_root (s : State) (sym : Byte) (n : Word) : (s.setFreq sym n).root = s.root := rfl
@[simp] theorem State.setFreq_nnodes (s : State) (sym : Byte) (n : Word) : (s.setFreq sym n).nnodes = s.nnodes := rfl
@[simp] theorem State.setFreq_maxlen (s : State) (sym : Byte) (n : Word) : (s.setFreq sym n).maxlen = s.maxlen := rfl
@[simp] theorem State.setFreq_outcnt (s : State) (sym : Byte) (n : Word) : (s.setFreq sym n).outcnt = s.outcnt := rfl
@[simp] theorem State.setFreq_encBitcnt (s : State) (sym : Byte) (n : Word) : (s.setFreq sym n).encBitcnt = s.encBitcnt := rfl
@[simp] theorem State.setFreq_padbits (s : State) (sym : Byte) (n : Word) : (s.setFreq sym n).padbits = s.padbits := rfl
@[simp] theorem State.setFreq_decBitcnt (s : State) (sym : Byte) (n : Word) : (s.setFreq sym n).decBitcnt = s.decBitcnt := rfl
@[simp] theorem State.setFreq_cursor (s : State) (sym : Byte) (n : Word) : (s.setFreq sym n).cursor = s.cursor := rfl
@[simp] theorem State.setFreq_freq (s : State) (sym : Byte) (n : Word) : (s.setFreq sym n).freq = s.freq.set sym.toNat n := rfl
@[simp] theorem State.setFreq_node (s : State) (sym : Byte) (n : Word) : (s.setFreq sym n).node = s.node := rfl
@[simp] theorem State.setFreq_code (s : State) (sym : Byte) (n : Word) : (s.setFreq sym n).code = s.code := rfl
@[simp] theorem State.setFreq_out (s : State) (sym : Byte) (n : Word) : (s.setFreq sym n).out = s.out := rfl
@[simp] theorem State.setFreq_pend (s : State) (sym : Byte) (n : Word) : (s.setFreq sym n).pend = s.pend := rfl
@[simp] theorem State.setFreq_parg (s : State) (sym : Byte) (n : Word) : (s.setFreq sym n).parg = s.parg := rfl
@[simp] theorem State.setFreq_acc (s : State) (sym : Byte) (n : Word) : (s.setFreq sym n).acc = s.acc := rfl
@[simp] theorem State.setFreq_accN (s : State) (sym : Byte) (n : Word) : (s.setFreq sym n).accN = s.accN := rfl
@[simp] theorem State.setFreq_params (s : State) (sym : Byte) (n : Word) : (s.setFreq sym n).params = s.params := rfl
@[simp] theorem State.setFreq_rstN (s : State) (sym : Byte) (n : Word) : (s.setFreq sym n).rstN = s.rstN := rfl
@[simp] theorem State.setFreq_rstCycles (s : State) (sym : Byte) (n : Word) : (s.setFreq sym n).rstCycles = s.rstCycles := rfl
@[simp] theorem State.setFreq_resp (s : State) (sym : Byte) (n : Word) : (s.setFreq sym n).resp = s.resp := rfl
@[simp] theorem State.setFreq_inputs (s : State) (sym : Byte) (n : Word) : (s.setFreq sym n).inputs = s.inputs := rfl
@[simp] theorem State.setFreq_draws (s : State) (sym : Byte) (n : Word) : (s.setFreq sym n).draws = s.draws := rfl

/-! ## takeInput: the input list and the bus answer before a step -/

@[simp] theorem State.takeInput_arg0 (s : State) : (s.takeInput).arg0 = s.arg0 := rfl
@[simp] theorem State.takeInput_busy (s : State) : (s.takeInput).busy = s.busy := rfl
@[simp] theorem State.takeInput_done (s : State) : (s.takeInput).done = s.done := rfl
@[simp] theorem State.takeInput_err (s : State) : (s.takeInput).err = s.err := rfl
@[simp] theorem State.takeInput_treeValid (s : State) : (s.takeInput).treeValid = s.treeValid := rfl
@[simp] theorem State.takeInput_codeValid (s : State) : (s.takeInput).codeValid = s.codeValid := rfl
@[simp] theorem State.takeInput_mode (s : State) : (s.takeInput).mode = s.mode := rfl
@[simp] theorem State.takeInput_decPartial (s : State) : (s.takeInput).decPartial = s.decPartial := rfl
@[simp] theorem State.takeInput_errcode (s : State) : (s.takeInput).errcode = s.errcode := rfl
@[simp] theorem State.takeInput_errcmd (s : State) : (s.takeInput).errcmd = s.errcmd := rfl
@[simp] theorem State.takeInput_ieDone (s : State) : (s.takeInput).ieDone = s.ieDone := rfl
@[simp] theorem State.takeInput_ieErr (s : State) : (s.takeInput).ieErr = s.ieErr := rfl
@[simp] theorem State.takeInput_nsym (s : State) : (s.takeInput).nsym = s.nsym := rfl
@[simp] theorem State.takeInput_total (s : State) : (s.takeInput).total = s.total := rfl
@[simp] theorem State.takeInput_root (s : State) : (s.takeInput).root = s.root := rfl
@[simp] theorem State.takeInput_nnodes (s : State) : (s.takeInput).nnodes = s.nnodes := rfl
@[simp] theorem State.takeInput_maxlen (s : State) : (s.takeInput).maxlen = s.maxlen := rfl
@[simp] theorem State.takeInput_outcnt (s : State) : (s.takeInput).outcnt = s.outcnt := rfl
@[simp] theorem State.takeInput_encBitcnt (s : State) : (s.takeInput).encBitcnt = s.encBitcnt := rfl
@[simp] theorem State.takeInput_padbits (s : State) : (s.takeInput).padbits = s.padbits := rfl
@[simp] theorem State.takeInput_decBitcnt (s : State) : (s.takeInput).decBitcnt = s.decBitcnt := rfl
@[simp] theorem State.takeInput_cursor (s : State) : (s.takeInput).cursor = s.cursor := rfl
@[simp] theorem State.takeInput_freq (s : State) : (s.takeInput).freq = s.freq := rfl
@[simp] theorem State.takeInput_node (s : State) : (s.takeInput).node = s.node := rfl
@[simp] theorem State.takeInput_code (s : State) : (s.takeInput).code = s.code := rfl
@[simp] theorem State.takeInput_out (s : State) : (s.takeInput).out = s.out := rfl
@[simp] theorem State.takeInput_pend (s : State) : (s.takeInput).pend = s.pend := rfl
@[simp] theorem State.takeInput_parg (s : State) : (s.takeInput).parg = s.parg := rfl
@[simp] theorem State.takeInput_acc (s : State) : (s.takeInput).acc = s.acc := rfl
@[simp] theorem State.takeInput_accN (s : State) : (s.takeInput).accN = s.accN := rfl
@[simp] theorem State.takeInput_params (s : State) : (s.takeInput).params = s.params := rfl
@[simp] theorem State.takeInput_rstN (s : State) : (s.takeInput).rstN = s.rstN := rfl
@[simp] theorem State.takeInput_rstCycles (s : State) : (s.takeInput).rstCycles = s.rstCycles := rfl
@[simp] theorem State.takeInput_resp (s : State) : (s.takeInput).resp = .none := rfl
@[simp] theorem State.takeInput_inputs (s : State) : (s.takeInput).inputs = s.inputs.tail := rfl
@[simp] theorem State.takeInput_draws (s : State) : (s.takeInput).draws = s.draws := rfl

/-! ## resetAll: ResetAll (R301) -/

@[simp] theorem State.resetAll_arg0 (s : State) : (s.resetAll).arg0 = 0#32 := rfl
@[simp] theorem State.resetAll_busy (s : State) : (s.resetAll).busy = false := rfl
@[simp] theorem State.resetAll_done (s : State) : (s.resetAll).done = false := rfl
@[simp] theorem State.resetAll_err (s : State) : (s.resetAll).err = false := rfl
@[simp] theorem State.resetAll_treeValid (s : State) : (s.resetAll).treeValid = false := rfl
@[simp] theorem State.resetAll_codeValid (s : State) : (s.resetAll).codeValid = false := rfl
@[simp] theorem State.resetAll_mode (s : State) : (s.resetAll).mode = .idle := rfl
@[simp] theorem State.resetAll_decPartial (s : State) : (s.resetAll).decPartial = false := rfl
@[simp] theorem State.resetAll_errcode (s : State) : (s.resetAll).errcode = none := rfl
@[simp] theorem State.resetAll_errcmd (s : State) : (s.resetAll).errcmd = 0#32 := rfl
@[simp] theorem State.resetAll_ieDone (s : State) : (s.resetAll).ieDone = false := rfl
@[simp] theorem State.resetAll_ieErr (s : State) : (s.resetAll).ieErr = false := rfl
@[simp] theorem State.resetAll_nsym (s : State) : (s.resetAll).nsym = 0#9 := rfl
@[simp] theorem State.resetAll_total (s : State) : (s.resetAll).total = 0#32 := rfl
@[simp] theorem State.resetAll_root (s : State) : (s.resetAll).root = NIL := rfl
@[simp] theorem State.resetAll_nnodes (s : State) : (s.resetAll).nnodes = 0#10 := rfl
@[simp] theorem State.resetAll_maxlen (s : State) : (s.resetAll).maxlen = 0#8 := rfl
@[simp] theorem State.resetAll_outcnt (s : State) : (s.resetAll).outcnt = 0#17 := rfl
@[simp] theorem State.resetAll_encBitcnt (s : State) : (s.resetAll).encBitcnt = 0#32 := rfl
@[simp] theorem State.resetAll_padbits (s : State) : (s.resetAll).padbits = 0#3 := rfl
@[simp] theorem State.resetAll_decBitcnt (s : State) : (s.resetAll).decBitcnt = 0#32 := rfl
@[simp] theorem State.resetAll_cursor (s : State) : (s.resetAll).cursor = NIL := rfl
@[simp] theorem State.resetAll_freq (s : State) : (s.resetAll).freq = Table.replicate 256 0#32 := rfl
@[simp] theorem State.resetAll_node (s : State) : (s.resetAll).node = s.node := rfl
@[simp] theorem State.resetAll_code (s : State) : (s.resetAll).code = s.code := rfl
@[simp] theorem State.resetAll_out (s : State) : (s.resetAll).out = s.out := rfl
@[simp] theorem State.resetAll_pend (s : State) : (s.resetAll).pend = 0#32 := rfl
@[simp] theorem State.resetAll_parg (s : State) : (s.resetAll).parg = 0#32 := rfl
@[simp] theorem State.resetAll_acc (s : State) : (s.resetAll).acc = 0#7 := rfl
@[simp] theorem State.resetAll_accN (s : State) : (s.resetAll).accN = 0#3 := rfl
@[simp] theorem State.resetAll_params (s : State) : (s.resetAll).params = s.params := rfl
@[simp] theorem State.resetAll_rstN (s : State) : (s.resetAll).rstN = s.rstN := rfl
@[simp] theorem State.resetAll_rstCycles (s : State) : (s.resetAll).rstCycles = s.rstCycles := rfl
@[simp] theorem State.resetAll_resp (s : State) : (s.resetAll).resp = s.resp := rfl
@[simp] theorem State.resetAll_inputs (s : State) : (s.resetAll).inputs = s.inputs := rfl
@[simp] theorem State.resetAll_draws (s : State) : (s.resetAll).draws = s.draws := rfl

end Sys2Proof.Machine
end

