-- ==== Sys2Proof/Laws/Memory.lean ====
section
/-! SUPPORT. The laws of the output buffer: a read after a write, and that every operation keeps the canonical form. -/

namespace Sys2Proof.Machine

@[simp] theorem Memory.read_nil (j : Nat) : Memory.read [] j = 0#8 := rfl

/-- In canonical form above lo, every index below lo holds 0. -/
theorem Memory.read_of_lt {m : Memory} {lo j : Nat} (h : Memory.wfFrom lo m = true) (hj : j < lo) : Memory.read m j = 0#8 := by
  induction m generalizing lo with
  | nil => rfl
  | cons c m ih =>
    obtain ⟨a, b⟩ := c
    simp only [Memory.wfFrom, Bool.and_eq_true, decide_eq_true_eq] at h
    have hne : a ≠ j := by omega
    simp only [Memory.read, hne, if_false]
    exact ih h.2 (by omega)

theorem Memory.wfFrom_mono {m : Memory} {lo lo' : Nat} (h : Memory.wfFrom lo m = true) (hl : lo' ≤ lo) :
    Memory.wfFrom lo' m = true := by
  cases m with
  | nil => rfl
  | cons c m =>
    simp only [Memory.wfFrom, Bool.and_eq_true, decide_eq_true_eq] at h ⊢
    exact ⟨⟨by omega, h.1.2⟩, h.2⟩

theorem Memory.read_cons (j : Nat) (b : Byte) (m : Memory) (k : Nat) (h : Memory.read m j = 0#8) :
    Memory.read (Memory.cons j b m) k = if j = k then b else Memory.read m k := by
  unfold Memory.cons
  by_cases hb : b = 0#8
  · by_cases hjk : j = k
    · subst hjk; simp [hb, h]
    · simp [hb, hjk]
  · simp [hb, Memory.read]

/-- A read after a write: the byte written at its own index, the old byte elsewhere. -/
theorem Memory.read_write {m : Memory} (h : Memory.wf m = true) (j : Nat) (b : Byte) (k : Nat) :
    Memory.read (Memory.write m j b) k = if j = k then b else Memory.read m k := by
  unfold Memory.wf at h
  generalize 0 = lo at h
  induction m generalizing lo with
  | nil => exact Memory.read_cons j b [] k rfl
  | cons c m ih =>
    obtain ⟨a, d⟩ := c
    have hw := h
    simp only [Memory.wfFrom, Bool.and_eq_true, decide_eq_true_eq] at h
    unfold Memory.write
    by_cases h1 : j < a
    · rw [if_pos h1]
      have hz : Memory.wfFrom a ((a, d) :: m) = true := by
        simp [Memory.wfFrom, h.1.2, h.2]
      exact Memory.read_cons j b _ k (Memory.read_of_lt hz h1)
    · rw [if_neg h1]
      by_cases h2 : j = a
      · subst h2
        rw [if_pos rfl, Memory.read_cons j b m k (Memory.read_of_lt h.2 (Nat.lt_succ_self j))]
        by_cases hjk : j = k <;> simp [hjk, Memory.read]
      · rw [if_neg h2]
        by_cases hak : a = k
        · subst hak
          simp [Memory.read, h2]
        · simp only [Memory.read, hak, if_false]
          exact ih _ h.2

theorem Memory.wfFrom_cons {m : Memory} {lo j : Nat} (b : Byte) (h : Memory.wfFrom (j + 1) m = true) (hj : lo ≤ j) :
    Memory.wfFrom lo (Memory.cons j b m) = true := by
  unfold Memory.cons
  by_cases hb : b = 0#8
  · simp only [hb, if_true]
    exact Memory.wfFrom_mono h (by omega)
  · simp [hb, Memory.wfFrom, hj, h]

theorem Memory.wfFrom_write {m : Memory} {lo : Nat} (h : Memory.wfFrom lo m = true) (j : Nat) (b : Byte) (hj : lo ≤ j) :
    Memory.wfFrom lo (Memory.write m j b) = true := by
  induction m generalizing lo with
  | nil => exact Memory.wfFrom_cons b rfl hj
  | cons c m ih =>
    obtain ⟨a, d⟩ := c
    simp only [Memory.wfFrom, Bool.and_eq_true, decide_eq_true_eq] at h
    unfold Memory.write
    by_cases h1 : j < a
    · rw [if_pos h1]
      refine Memory.wfFrom_cons b ?_ hj
      simp only [Memory.wfFrom, Bool.and_eq_true, decide_eq_true_eq]
      exact ⟨⟨h1, h.1.2⟩, h.2⟩
    · rw [if_neg h1]
      by_cases h2 : j = a
      · subst h2
        rw [if_pos rfl]
        exact Memory.wfFrom_cons b h.2 hj
      · rw [if_neg h2]
        simp only [Memory.wfFrom, Bool.and_eq_true, decide_eq_true_eq]
        exact ⟨⟨h.1.1, h.1.2⟩, ih h.2 (by omega)⟩

/-- A write keeps the canonical form. -/
theorem Memory.wf_write {m : Memory} (h : Memory.wf m = true) (j : Nat) (b : Byte) : Memory.wf (Memory.write m j b) = true :=
  Memory.wfFrom_write h j b (Nat.zero_le j)

@[simp] theorem Memory.wf_nil : Memory.wf [] = true := rfl

/-- A write below n lists nothing at or past n. -/
theorem Memory.below_write {m : Memory} {n j : Nat} (h : Memory.below n m = true) (hj : j < n) (b : Byte) :
    Memory.below n (Memory.write m j b) = true := by
  have hc : ∀ m' : Memory, Memory.below n m' = true → Memory.below n (Memory.cons j b m') = true := by
    intro m' hm'
    unfold Memory.cons
    by_cases hb : b = 0#8
    · simpa [hb] using hm'
    · simp only [hb, if_false]
      simpa [Memory.below, hj] using hm'
  induction m with
  | nil => exact hc [] rfl
  | cons c m ih =>
    obtain ⟨a, d⟩ := c
    have h' : a < n ∧ Memory.below n m = true := by simpa [Memory.below] using h
    unfold Memory.write
    by_cases h1 : j < a
    · rw [if_pos h1]; exact hc _ h
    · rw [if_neg h1]
      by_cases h2 : j = a
      · rw [if_pos h2]; exact hc _ h'.2
      · rw [if_neg h2]
        have := ih h'.2
        simpa [Memory.below, h'.1] using this

/-- OUT after one byte is emitted (R213, R232). -/
theorem State.outByte_emit {s : State} (h : Memory.wf s.out = true) (b : Byte) (j : Nat) :
    (s.emit b).outByte j = if s.outcnt.toNat = j then b else s.outByte j :=
  Memory.read_write h s.outcnt.toNat b j

theorem State.wf_emit {s : State} (h : Memory.wf s.out = true) (b : Byte) : Memory.wf (s.emit b).out = true :=
  Memory.wf_write h _ b

/-- `emitAll` changes OUT and OUTCNT only. -/
theorem State.emitAll_eq (s : State) (bs : List Byte) :
    s.emitAll bs = { s with out := (s.emitAll bs).out, outcnt := (s.emitAll bs).outcnt } := by
  induction bs generalizing s with
  | nil => rfl
  | cons b bs ih =>
    rw [State.emitAll, ih]
    rfl

/-- `emitAll` raises OUTCNT by the number of bytes. -/
theorem State.emitAll_outcnt (s : State) (bs : List Byte) :
    (s.emitAll bs).outcnt = s.outcnt + BitVec.ofNat 17 bs.length := by
  induction bs generalizing s with
  | nil => simp [State.emitAll]
  | cons b bs ih =>
    rw [State.emitAll, ih, State.emit_outcnt, List.length_cons]
    apply BitVec.eq_of_toNat_eq
    simp only [BitVec.toNat_add, BitVec.toNat_ofNat]
    omega

theorem State.wf_emitAll {s : State} (h : Memory.wf s.out = true) (bs : List Byte) :
    Memory.wf (s.emitAll bs).out = true := by
  induction bs generalizing s with
  | nil => exact h
  | cons b bs ih => exact ih (State.wf_emit h b)

end Sys2Proof.Machine
end

