-- ==== Sys2Proof/Laws/Table.lean ====
section
/-! SUPPORT. The laws of tables: what a read gives after a write. -/

namespace Sys2Proof.Machine

variable {α : Type} {n : Nat}

/-- Two tables with the same entries are the same. -/
theorem Table.ext_toList {t u : Table α n} (h : t.toList = u.toList) : t = u := by
  cases t; cases u; cases h; rfl

@[simp] theorem Table.toList_replicate (n : Nat) (a : α) : (Table.replicate n a).toList = List.replicate n a := rfl

@[simp] theorem Table.toList_set (t : Table α n) (i : Nat) (a : α) : (t.set i a).toList = t.toList.set i a := rfl

theorem Table.get?_eq_get (t : Table α n) (i : Nat) (h : i < n) : t.get? i = some (t.get i h) := by
  unfold Table.get? Table.get
  exact List.getElem?_eq_getElem _

/-- There is no entry at or past n. -/
theorem Table.get?_eq_none (t : Table α n) (i : Nat) (h : n ≤ i) : t.get? i = none := by
  unfold Table.get?
  exact List.getElem?_eq_none (by rw [t.length_toList]; exact h)

@[simp] theorem Table.get_replicate (a : α) (i : Nat) (h : i < n) : (Table.replicate n a).get i h = a := by
  simp [Table.get]

/-- A read after a write: the value written at its own index, the old entry elsewhere. -/
theorem Table.get_set (t : Table α n) (i j : Nat) (a : α) (h : j < n) :
    (t.set i a).get j h = if i = j then a else t.get j h := by
  simp only [Table.get, Table.toList_set]
  exact List.getElem_set _

@[simp] theorem Table.get_set_self (t : Table α n) (i : Nat) (a : α) (h : i < n) : (t.set i a).get i h = a := by
  simp [Table.get_set]

theorem Table.get_set_ne (t : Table α n) {i j : Nat} (a : α) (h : j < n) (hij : i ≠ j) :
    (t.set i a).get j h = t.get j h := by
  simp [Table.get_set, hij]

/-- The same for reads that may fall outside the table. -/
theorem Table.get?_set (t : Table α n) (i j : Nat) (a : α) :
    (t.set i a).get? j = if i = j ∧ j < n then some a else t.get? j := by
  simp only [Table.get?, Table.toList_set, List.getElem?_set, t.length_toList]
  by_cases hij : i = j
  · subst hij
    by_cases hi : i < n
    · simp [hi]
    · have := t.length_toList
      simp [hi, this]
  · simp [hij]

theorem byte_eq_of_toNat {a b : Byte} : a.toNat = b.toNat ↔ a = b := BitVec.toNat_inj

/-- FREQ after one count is written. -/
@[simp] theorem State.freqAt_setFreq (s : State) (sym sym' : Byte) (c : Word) :
    (s.freq.set sym.toNat c).get sym'.toNat sym'.isLt = if sym = sym' then c else s.freqAt sym' := by
  simp [Table.get_set, State.freqAt, byte_eq_of_toNat]

/-- A code table after one entry is written. -/
theorem get_setCode (c : CodeTable) (sym sym' : Byte) (e : CodeEntry) :
    (setCode c sym e).get sym'.toNat sym'.isLt = if sym = sym' then e else c.get sym'.toNat sym'.isLt := by
  simp [setCode, Table.get_set, byte_eq_of_toNat]

end Sys2Proof.Machine
end

