-- ==== Sys2Proof/Laws/Exec.lean ====
section
/-! SUPPORT. What the shared operations and `exec` can do, said once: the two ways a command ends (R262), the four cases of
acceptance (R261), and what PushBit changes (R213). -/

namespace Sys2Proof.Machine

/-! ## The shared operations -/

/-- A command either completes with its own writes or takes an error (R262). -/
theorem finish_cases {s t : State} {body : Except ErrCode State} (h : finish s body = .next t) :
    (∃ s1, body = .ok s1 ∧ t = s1.complete) ∨ (∃ e, body = .error e ∧ t = s.raise e) := by
  cases body with
  | ok s1 => exact .inl ⟨s1, rfl, by simpa [finish] using h.symm⟩
  | error e => exact .inr ⟨e, rfl, by simpa [finish] using h.symm⟩

@[simp] theorem finish_ok (s s1 : State) : finish s (.ok s1) = .next s1.complete := rfl

@[simp] theorem finish_error (s : State) (e : ErrCode) : finish s (.error e) = .next (s.raise e) := rfl

@[simp] theorem require_true (body : Except ErrCode State) : require true body = body := rfl

@[simp] theorem require_false (body : Except ErrCode State) : require false body = .error .seq := rfl

/-- A body that passes `require` met the condition (R265). -/
theorem require_ok {c : Bool} {body : Except ErrCode State} {s1 : State} (h : require c body = .ok s1) :
    c = true ∧ body = .ok s1 := by
  cases c with
  | true => exact ⟨rfl, h⟩
  | false => cases h

/-- The four cases of acceptance (R261). -/
theorem accept_cases (s : State) (w : Word) :
    (w = resetWord ∧ s.accept w = s.resetAll) ∨
    (w ≠ resetWord ∧ s.err = true ∧ s.accept w = s) ∨
    (w ≠ resetWord ∧ s.err = false ∧ s.busy = true ∧ s.accept w = s.recordError .busy w) ∨
    (w ≠ resetWord ∧ s.err = false ∧ s.busy = false ∧ s.accept w = s.latch w) := by
  unfold State.accept
  by_cases hw : w = resetWord
  · exact .inl ⟨hw, if_pos hw⟩
  · rw [if_neg hw]
    cases he : s.err <;> cases hb : s.busy <;> simp [hw]

/-- What a bus access can do: a read draws one free value, a write acts at four offsets (R94, R95). -/
theorem memWrite_cases (s : State) (addr v : Word) :
    s.memWrite addr v = s.accept v ∨ s.memWrite addr v = { s with arg0 := v } ∨
    s.memWrite addr v = s.writeStatus v ∨ s.memWrite addr v = s.writeCtrl v ∨ s.memWrite addr v = s := by
  unfold State.memWrite
  split <;> simp

/-- PushBit changes OUT, OUTCNT, ACC and ACC_N only (R213). -/
theorem State.pushBit_eq (s : State) (b : Bool) :
    s.pushBit b =
      { s with out := (s.pushBit b).out, outcnt := (s.pushBit b).outcnt, acc := (s.pushBit b).acc, accN := (s.pushBit b).accN } := by
  unfold State.pushBit
  split <;> rfl

theorem State.pushBits_eq (s : State) (bs : List Bool) :
    s.pushBits bs =
      { s with out := (s.pushBits bs).out, outcnt := (s.pushBits bs).outcnt, acc := (s.pushBits bs).acc, accN := (s.pushBits bs).accN } := by
  induction bs generalizing s with
  | nil => rfl
  | cons b bs ih =>
    rw [State.pushBits, ih, State.pushBit_eq s b]

/-- PushBit with fewer than seven bits pending (R213). -/
theorem State.pushBit_pending {s : State} (h : s.accN ≠ 7#3) (b : Bool) :
    s.pushBit b = { s with acc := accPush s.acc s.accN b, accN := s.accN + 1#3 } := if_neg h

/-- PushBit of the eighth bit (R213). -/
theorem State.pushBit_full {s : State} (h : s.accN = 7#3) (b : Bool) :
    s.pushBit b = { s.emit (s.acc ++ BitVec.ofBool b : BitVec 8) with acc := 0#7, accN := 0#3 } := if_pos h

theorem State.wf_pushBits {s : State} (h : Memory.wf s.out = true) (bs : List Bool) :
    Memory.wf (s.pushBits bs).out = true := by
  induction bs generalizing s with
  | nil => exact h
  | cons b bs ih =>
    refine ih ?_
    unfold State.pushBit
    split
    · exact State.wf_emit h _
    · exact h

/-! ## exec -/

/-- The body of a latched command after its precondition; RESET has none, it acts at acceptance (R151). -/
def innerBody (i : Instr) (s : State) : Except ErrCode State :=
  match i with
  | .nop => .ok s
  | .reset => .ok s
  | .freqClr => freqClrBody s
  | .freqAdd sym => freqAddBody sym s
  | .freqSet sym => freqSetBody sym s
  | .build => buildBody s
  | .gen => genBody s
  | .encStart => encStartBody s
  | .encSym sym => encSymBody sym s
  | .encFlush => encFlushBody s
  | .decStart => decStartBody s
  | .decByte byte nb => decByteBody byte nb s
  | .decEnd => decEndBody s

/-- The body of a latched command with its precondition (R262, R265). -/
def commandBody (i : Instr) (s : State) : Except ErrCode State := require (precondition i s) (innerBody i s)

/-- `exec` of a latched command is its body, finished (R262). -/
theorem exec_eq_finish {i : Instr} (h : i ≠ .reset) (s : State) : exec i s = finish s (commandBody i s) := by
  cases i <;> first | exact absurd rfl h | rfl

/-- A command whose precondition is false takes E_SEQ (R265). -/
theorem exec_badSeq {i : Instr} {s : State} (hi : i ≠ .reset) (hp : precondition i s = false) :
    exec i s = .next (s.raise .seq) := by
  rw [exec_eq_finish hi, commandBody, hp]; rfl

/-- A command whose precondition holds and whose body succeeds completes with the body's writes (R262). -/
theorem exec_success {i : Instr} {s s1 : State} (hi : i ≠ .reset) (hp : precondition i s = true)
    (hb : innerBody i s = .ok s1) : exec i s = .next s1.complete := by
  rw [exec_eq_finish hi, commandBody, hp, hb]; rfl

/-- A command whose precondition holds and whose body raises an error takes it (R262). -/
theorem exec_failure {i : Instr} {s : State} {e : ErrCode} (hi : i ≠ .reset) (hp : precondition i s = true)
    (hb : innerBody i s = .error e) : exec i s = .next (s.raise e) := by
  rw [exec_eq_finish hi, commandBody, hp, hb]; rfl

theorem exec_reset (s : State) : exec .reset s = .next s.resetAll := rfl

/-- What `exec` can do: ResetAll, a success, or an error taken. -/
theorem exec_cases {i : Instr} {s t : State} (h : exec i s = .next t) :
    (i = .reset ∧ t = s.resetAll) ∨
    (i ≠ .reset ∧ precondition i s = true ∧ ∃ s1, commandBody i s = .ok s1 ∧ t = s1.complete) ∨
    (i ≠ .reset ∧ ∃ e, commandBody i s = .error e ∧ t = s.raise e) := by
  by_cases hi : i = .reset
  · subst hi
    exact .inl ⟨rfl, by simpa [exec_reset] using h.symm⟩
  · rw [exec_eq_finish hi] at h
    rcases finish_cases h with ⟨s1, h1, rfl⟩ | ⟨e, h1, rfl⟩
    · exact .inr (.inl ⟨hi, (require_ok h1).1, s1, h1, rfl⟩)
    · exact .inr (.inr ⟨hi, e, h1, rfl⟩)

/-- `exec` never faults and never refuses. -/
theorem exec_next (i : Instr) (s : State) : ∃ t, exec i s = .next t := by
  by_cases hi : i = .reset
  · exact ⟨s.resetAll, by rw [hi]; rfl⟩
  · rw [exec_eq_finish hi]
    cases commandBody i s with
    | ok s1 => exact ⟨_, rfl⟩
    | error e => exact ⟨_, rfl⟩

/-! ## What no command body writes -/

/-- t agrees with s on everything that only acceptance, completion, errors, the bus and the pins write. -/
def SameOutside (s t : State) : Prop :=
  t.arg0 = s.arg0 ∧ t.busy = s.busy ∧ t.done = s.done ∧ t.err = s.err ∧ t.errcode = s.errcode ∧ t.errcmd = s.errcmd ∧
  t.ieDone = s.ieDone ∧ t.ieErr = s.ieErr ∧ t.pend = s.pend ∧ t.parg = s.parg ∧ t.params = s.params ∧ t.rstN = s.rstN ∧
  t.rstCycles = s.rstCycles ∧ t.resp = s.resp ∧ t.inputs = s.inputs ∧ t.draws = s.draws

theorem freqClrBody_ok {s t : State} (h : freqClrBody s = .ok t) :
    t = { s with freq := Table.replicate 256 0#32, nsym := 0#9, total := 0#32 } := by
  cases h; rfl

theorem freqAddBody_ok {sym : Byte} {s t : State} (h : freqAddBody sym s = .ok t) :
    s.total ≠ 0xFFFFFFFF#32 ∧ t = { s.setFreq sym (s.freqAt sym + 1#32) with
      nsym := if s.freqAt sym = 0#32 then s.nsym + 1#9 else s.nsym, total := s.total + 1#32 } := by
  unfold freqAddBody at h
  split at h
  · cases h
  · next hn => exact ⟨hn, (Except.ok.inj h).symm⟩

theorem freqSetBody_ok {sym : Byte} {s t : State} (h : freqSetBody sym s = .ok t) :
    freqSetTotal sym s ≤ 0xFFFFFFFF ∧ t = { s.setFreq sym s.countOperand with
      nsym := freqSetNsym sym s, total := BitVec.ofInt 32 (freqSetTotal sym s) } := by
  unfold freqSetBody at h
  split at h
  · cases h
  · next hn => exact ⟨by omega, (Except.ok.inj h).symm⟩

theorem buildBody_ok {s t : State} (h : buildBody s = .ok t) :
    t = { s with root := rootOf (buildTree s.freq).2, nnodes := BitVec.ofNat 10 (buildTree s.freq).1.length,
                 node := writeNodes 0 (buildTree s.freq).1 s.node, treeValid := true } :=
  (Except.ok.inj h).symm

theorem genBody_ok {s t : State} (h : genBody s = .ok t) :
    ∃ c m, genCodes s = .ok (c, m) ∧ t = { s with code := c, maxlen := BitVec.ofNat 8 m, codeValid := true } := by
  unfold genBody at h
  split at h
  · cases h
  · next c m hc => exact ⟨c, m, hc, (Except.ok.inj h).symm⟩

theorem encStartBody_ok {s t : State} (h : encStartBody s = .ok t) :
    t = { s with mode := .enc, outcnt := 0#17, encBitcnt := 0#32, padbits := 0#3, acc := 0#7, accN := 0#3 } :=
  (Except.ok.inj h).symm

theorem encSymBody_ok {sym : Byte} {s t : State} (h : encSymBody sym s = .ok t) :
    (s.codeAt sym).valid = true ∧ s.outcnt.toNat + completedBytes s (s.codeAt sym) ≤ s.outDepth ∧
    t = { s.pushBits (codeString (s.codeAt sym)) with encBitcnt := s.encBitcnt + (s.codeAt sym).len.setWidth 32 } := by
  unfold encSymBody at h
  dsimp only at h
  split at h
  · cases h
  · next hv =>
    split at h
    · cases h
    · next hr => exact ⟨by simpa using hv, by omega, (Except.ok.inj h).symm⟩

theorem encFlushBody_ok {s t : State} (h : encFlushBody s = .ok t) :
    (s.accN = 0#3 ∧ t = { s with padbits := 0#3, acc := 0#7, accN := 0#3, mode := .idle }) ∨
    (s.accN ≠ 0#3 ∧ s.outcnt.toNat + 1 ≤ s.outDepth ∧ t = { s.emit (flushByte s.acc s.accN) with
      padbits := BitVec.ofNat 3 (8 - s.accN.toNat), acc := 0#7, accN := 0#3, mode := .idle }) := by
  unfold encFlushBody at h
  split at h
  · next hz => exact .inl ⟨hz, (Except.ok.inj h).symm⟩
  · next hz =>
    split at h
    · cases h
    · next hr => exact .inr ⟨hz, by omega, (Except.ok.inj h).symm⟩

theorem decStartBody_ok {s t : State} (h : decStartBody s = .ok t) :
    t = { s with mode := .dec, decPartial := false, outcnt := 0#17, decBitcnt := 0#32, cursor := s.root } :=
  (Except.ok.inj h).symm

theorem decByteBody_ok {byte : Byte} {nb : BitVec 4} {s t : State} (h : decByteBody byte nb s = .ok t) :
    nb.toNat ≤ 8 ∧ ∃ cur es, walkBits s s.cursor (streamBits byte nb.toNat) = .ok (cur, es) ∧
      s.outcnt.toNat + es.length ≤ s.outDepth ∧
      t = { s.emitAll es with cursor := cur, decBitcnt := s.decBitcnt + nb.setWidth 32 } := by
  unfold decByteBody at h
  split at h
  · cases h
  · next hn =>
    split at h
    · cases h
    · next cur es hw =>
      split at h
      · cases h
      · next hr =>
        exact ⟨by simpa [nbTooLarge] using hn, cur, es, hw, by omega, (Except.ok.inj h).symm⟩

theorem decEndBody_ok {s t : State} (h : decEndBody s = .ok t) :
    t = { s with decPartial := decide (s.cursor ≠ s.root), mode := .idle } :=
  (Except.ok.inj h).symm

/-- A command body that succeeds writes none of the error, acceptance, bus and pin state. -/
theorem commandBody_sameOutside {i : Instr} {s t : State} (h : commandBody i s = .ok t) : SameOutside s t := by
  have hb := (require_ok h).2
  have same : ∀ u : State, u = s → SameOutside s u := by
    rintro u rfl; simp [SameOutside]
  cases i
  case nop => exact same t (Except.ok.inj hb).symm
  case reset => exact same t (Except.ok.inj hb).symm
  case freqClr => rw [freqClrBody_ok hb]; exact same s rfl
  case freqAdd => rw [(freqAddBody_ok hb).2]; exact same s rfl
  case freqSet => rw [(freqSetBody_ok hb).2]; exact same s rfl
  case build => rw [buildBody_ok hb]; exact same s rfl
  case gen => obtain ⟨c, m, -, rfl⟩ := genBody_ok hb; exact same s rfl
  case encStart => rw [encStartBody_ok hb]; exact same s rfl
  case encSym => rw [(encSymBody_ok hb).2.2, State.pushBits_eq]; exact same s rfl
  case encFlush => rcases encFlushBody_ok hb with ⟨-, rfl⟩ | ⟨-, -, rfl⟩ <;> exact same s rfl
  case decStart => rw [decStartBody_ok hb]; exact same s rfl
  case decByte => obtain ⟨-, cur, es, -, -, rfl⟩ := decByteBody_ok hb; rw [State.emitAll_eq]; exact same s rfl
  case decEnd => rw [decEndBody_ok hb]; exact same s rfl

/-! ## The core and the whole step -/

/-- What a core step can do (R262). -/
theorem coreStep_cases {s t : State} (h : coreStep s = .next t) :
    (∃ i, decode s.pend = .ok i ∧ exec i s = .next t) ∨ (∃ e, decode s.pend = .error e ∧ t = s.raise .illegal) := by
  unfold coreStep at h
  split at h
  · next i hd => exact .inl ⟨i, hd, h⟩
  · next e hd => exact .inr ⟨e, hd, by simpa using h.symm⟩

/-- A core step never stops the machine. -/
theorem coreStep_next (s : State) : ∃ t, coreStep s = .next t := by
  unfold coreStep
  split
  · exact exec_next _ s
  · exact ⟨_, rfl⟩

/-- WHAT A STEP CAN DO, with u the state after the input is taken off the list: a bus access, a core step, a reset edge, a move
of the pin rst_n, or nothing. -/
theorem step_cases {s t : State} (h : step s = .next t) :
    ∃ u, u = s.takeInput ∧
    ((s.rstN = true ∧ ∃ op, s.nextInput = .bus op ∧ t = u.busAccess op) ∨
     (s.rstN = true ∧ s.nextInput = .core ∧ s.busy = true ∧ coreStep u = .next t) ∨
     (s.rstN = true ∧ s.nextInput = .core ∧ s.busy = false ∧ t = u) ∨
     (s.rstN = true ∧ s.nextInput = .clk ∧ t = u) ∨
     (s.rstN = false ∧ (s.nextInput = .core ∨ s.nextInput = .clk) ∧ t = u.resetEdge) ∨
     (s.nextInput = .rstLow ∧ t = u.driveReset) ∨
     (s.nextInput = .rstHigh ∧ releaseReset u = .next t)) := by
  refine ⟨s.takeInput, rfl, ?_⟩
  unfold step at h
  cases hi : s.nextInput with
  | bus op =>
    rw [hi] at h
    cases hr : s.rstN <;> simp [inputStep, hr] at h ⊢
    exact h.symm
  | core =>
    rw [hi] at h
    cases hr : s.rstN <;> cases hb : s.busy <;> simp [inputStep, coreTurn, hr, hb] at h ⊢ <;>
      first | exact h | exact h.symm
  | clk =>
    rw [hi] at h
    cases hr : s.rstN <;> simp [inputStep, hr] at h ⊢ <;> exact h.symm
  | rstLow =>
    rw [hi] at h
    simp [inputStep] at h ⊢
    exact h.symm
  | rstHigh =>
    rw [hi] at h
    simpa [inputStep] using h

end Sys2Proof.Machine
end

