-- ==== Sys2Proof/Laws/Output.lean ====
section
/-! SUPPORT. What the emission of bytes, the bit packer and the walk of the decoder do as a whole. -/

namespace Sys2Proof.Machine

/-- OUT_DEPTH is at most 65536 (R8). -/
theorem State.outDepth_le (s : State) : s.outDepth ≤ 65536 := by
  unfold State.outDepth Params.outDepth Params.outLog2
  have := s.params.outLog2Less2.isLt
  calc 2 ^ (s.params.outLog2Less2.val + 2) ≤ 2 ^ 16 := Nat.pow_le_pow_right (by omega) (by omega)
    _ = 65536 := by norm_num

/-- `emitAll` stores the bytes in order from OUT[OUTCNT] on and leaves every other byte (R232). -/
theorem State.emitAll_out {s : State} (hw : Memory.wf s.out = true) (bs : List Byte) (hr : s.outcnt.toNat + bs.length < 131072) :
    (s.emitAll bs).outcnt.toNat = s.outcnt.toNat + bs.length ∧
    (∀ j b, bs[j]? = some b → (s.emitAll bs).outByte (s.outcnt.toNat + j) = b) ∧
    (∀ j, j < s.outcnt.toNat ∨ s.outcnt.toNat + bs.length ≤ j → (s.emitAll bs).outByte j = s.outByte j) := by
  induction bs generalizing s with
  | nil => simp [State.emitAll]
  | cons b bs ih =>
    have h1 : (s.emit b).outcnt.toNat = s.outcnt.toNat + 1 := by
      simp at hr
      simp [BitVec.toNat_add]; omega
    obtain ⟨h2, h3, h4⟩ := ih (s := s.emit b) (State.wf_emit hw b) (by simp at hr ⊢; simp at h1; omega)
    simp only [State.emitAll, List.length_cons]
    refine ⟨by omega, ?_, ?_⟩
    · intro j c hj
      cases j with
      | zero =>
        simp at hj; subst hj
        rw [h4 _ (by left; omega), State.outByte_emit hw]; simp
      | succ j =>
        simp at hj
        have := h3 j c hj
        rw [h1] at this
        rw [← this]; congr 1; omega
    · intro j hj
      rw [h4 _ (by omega), State.outByte_emit hw]
      rw [if_neg (by omega)]

/-- `pushBits` completes (ACC_N + n) div 8 bytes and leaves every byte of OUT outside them (R211, R213). -/
theorem State.pushBits_out {s : State} (hw : Memory.wf s.out = true) (bs : List Bool) (hr : s.outcnt.toNat + (s.accN.toNat + bs.length) / 8 < 131072) :
    (s.pushBits bs).outcnt.toNat = s.outcnt.toNat + (s.accN.toNat + bs.length) / 8 ∧
    (s.pushBits bs).accN.toNat = (s.accN.toNat + bs.length) % 8 ∧
    (∀ j, j < s.outcnt.toNat ∨ s.outcnt.toNat + (s.accN.toNat + bs.length) / 8 ≤ j → (s.pushBits bs).outByte j = s.outByte j) := by
  induction bs generalizing s with
  | nil =>
    have := s.accN.isLt
    simp [State.pushBits]; omega
  | cons b bs ih =>
    have hlt := s.accN.isLt
    simp only [State.pushBits, List.length_cons] at *
    by_cases h7 : s.accN = 7#3
    · have h7' : s.accN.toNat = 7 := by rw [h7]; rfl
      rw [State.pushBit_full h7]
      have e1 : ((s.emit (s.acc ++ BitVec.ofBool b : BitVec 8)).outcnt).toNat = s.outcnt.toNat + 1 := by
        simp [BitVec.toNat_add]; omega
      have := ih (s := { s.emit (s.acc ++ BitVec.ofBool b : BitVec 8) with acc := 0#7, accN := 0#3 }) (State.wf_emit hw _) (by
        show (s.emit (s.acc ++ BitVec.ofBool b : BitVec 8)).outcnt.toNat + (0 + bs.length) / 8 < _
        rw [e1]; omega)
      obtain ⟨i1, i2, i3⟩ := this
      have e2 : ({ s.emit (s.acc ++ BitVec.ofBool b : BitVec 8) with acc := 0#7, accN := 0#3 } : State).outcnt.toNat = s.outcnt.toNat + 1 := e1
      have e3 : ({ s.emit (s.acc ++ BitVec.ofBool b : BitVec 8) with acc := 0#7, accN := 0#3 } : State).accN.toNat = 0 := rfl
      rw [e2, e3] at i1 i3; rw [e3] at i2
      refine ⟨by rw [i1]; omega, by rw [i2]; omega, ?_⟩
      intro j hj
      rw [i3 j (by omega)]
      show (s.emit (s.acc ++ BitVec.ofBool b : BitVec 8)).outByte j = _
      rw [State.outByte_emit hw, if_neg (by omega)]
    · rw [State.pushBit_pending h7]
      have h7' : s.accN.toNat ≠ 7 := by intro h; apply h7; apply BitVec.eq_of_toNat_eq; rw [h]; rfl
      have e3 : ({ s with acc := accPush s.acc s.accN b, accN := s.accN + 1#3 } : State).accN.toNat = s.accN.toNat + 1 := by
        simp [BitVec.toNat_add]; omega
      have := ih (s := { s with acc := accPush s.acc s.accN b, accN := s.accN + 1#3 }) hw (by rw [e3]; show s.outcnt.toNat + _ < _; omega)
      rw [e3] at this
      obtain ⟨i1, i2, i3⟩ := this
      refine ⟨by rw [i1]; show s.outcnt.toNat + _ = _; omega, by rw [i2]; omega, ?_⟩
      intro j hj
      exact i3 j (by show j < s.outcnt.toNat ∨ s.outcnt.toNat + _ ≤ j; omega)

/-- The code string has LEN bits (R54). -/
@[simp] theorem codeString_length (c : CodeEntry) : (codeString c).length = c.len.toNat := by simp [codeString]

/-- What `pushBits` does to the counters, whatever OUT is (R211, R213). -/
theorem State.pushBits_counts {s : State} (bs : List Bool) (hr : s.outcnt.toNat + (s.accN.toNat + bs.length) / 8 < 131072) :
    (s.pushBits bs).outcnt.toNat = s.outcnt.toNat + (s.accN.toNat + bs.length) / 8 ∧
    (s.pushBits bs).accN.toNat = (s.accN.toNat + bs.length) % 8 := by
  have key : ∀ m : Memory, (({ s with out := m } : State).pushBits bs).outcnt = (s.pushBits bs).outcnt ∧ (({ s with out := m } : State).pushBits bs).accN = (s.pushBits bs).accN := by
    intro m
    clear hr
    induction bs generalizing s m with
    | nil => exact ⟨rfl, rfl⟩
    | cons b bs ih =>
      simp only [State.pushBits]
      by_cases h7 : s.accN = 7#3
      · rw [State.pushBit_full (s := s) h7, State.pushBit_full (s := {s with out := m}) h7]
        exact ih (s := { s.emit (s.acc ++ BitVec.ofBool b : BitVec 8) with acc := 0#7, accN := 0#3 }) (Memory.write m s.outcnt.toNat (s.acc ++ BitVec.ofBool b : BitVec 8))
      · rw [State.pushBit_pending (s := s) h7, State.pushBit_pending (s := {s with out := m}) h7]
        exact ih (s := { s with acc := accPush s.acc s.accN b, accN := s.accN + 1#3 }) m
  have := State.pushBits_out (s := {s with out := []}) rfl bs hr
  rw [(key []).1, (key []).2] at this
  exact ⟨this.1, this.2.1⟩

/-- The tree-walk step raises no error but E_BADCODE (R231). -/
theorem treeStep_err {s cur b e} (h : treeStep s cur b = .error e) : e = .badcode := by
  unfold treeStep at h
  split at h
  · cases h; rfl
  · split at h
    · split at h <;> cases h; rfl
    · split at h <;> cases h

/-- A walk raises no error but E_BADCODE (R231, R232). -/
theorem walkBits_err {s cur bs e} (h : walkBits s cur bs = .error e) : e = .badcode := by
  induction bs generalizing cur with
  | nil => cases h
  | cons b bs ih =>
    unfold walkBits at h
    split at h
    · next e' he => cases h; exact treeStep_err he
    · next c1 e1 he =>
      split at h
      · next e' he' => cases h; exact ih he'
      · cases h

end Sys2Proof.Machine
end

