-- ==== Sys2Proof/Laws/Packer.lean ====
section
/-! SUPPORT. What packing bits (R213) and emitting symbols (R232) leave unchanged, one lemma per field. -/

namespace Sys2Proof.Machine

@[simp] theorem State.pushBits_arg0 (s : State) (bs : List Bool) : (s.pushBits bs).arg0 = s.arg0 := by rw [State.pushBits_eq]
@[simp] theorem State.pushBits_busy (s : State) (bs : List Bool) : (s.pushBits bs).busy = s.busy := by rw [State.pushBits_eq]
@[simp] theorem State.pushBits_done (s : State) (bs : List Bool) : (s.pushBits bs).done = s.done := by rw [State.pushBits_eq]
@[simp] theorem State.pushBits_err (s : State) (bs : List Bool) : (s.pushBits bs).err = s.err := by rw [State.pushBits_eq]
@[simp] theorem State.pushBits_treeValid (s : State) (bs : List Bool) : (s.pushBits bs).treeValid = s.treeValid := by rw [State.pushBits_eq]
@[simp] theorem State.pushBits_codeValid (s : State) (bs : List Bool) : (s.pushBits bs).codeValid = s.codeValid := by rw [State.pushBits_eq]
@[simp] theorem State.pushBits_mode (s : State) (bs : List Bool) : (s.pushBits bs).mode = s.mode := by rw [State.pushBits_eq]
@[simp] theorem State.pushBits_decPartial (s : State) (bs : List Bool) : (s.pushBits bs).decPartial = s.decPartial := by rw [State.pushBits_eq]
@[simp] theorem State.pushBits_errcode (s : State) (bs : List Bool) : (s.pushBits bs).errcode = s.errcode := by rw [State.pushBits_eq]
@[simp] theorem State.pushBits_errcmd (s : State) (bs : List Bool) : (s.pushBits bs).errcmd = s.errcmd := by rw [State.pushBits_eq]
@[simp] theorem State.pushBits_ieDone (s : State) (bs : List Bool) : (s.pushBits bs).ieDone = s.ieDone := by rw [State.pushBits_eq]
@[simp] theorem State.pushBits_ieErr (s : State) (bs : List Bool) : (s.pushBits bs).ieErr = s.ieErr := by rw [State.pushBits_eq]
@[simp] theorem State.pushBits_nsym (s : State) (bs : List Bool) : (s.pushBits bs).nsym = s.nsym := by rw [State.pushBits_eq]
@[simp] theorem State.pushBits_total (s : State) (bs : List Bool) : (s.pushBits bs).total = s.total := by rw [State.pushBits_eq]
@[simp] theorem State.pushBits_root (s : State) (bs : List Bool) : (s.pushBits bs).root = s.root := by rw [State.pushBits_eq]
@[simp] theorem State.pushBits_nnodes (s : State) (bs : List Bool) : (s.pushBits bs).nnodes = s.nnodes := by rw [State.pushBits_eq]
@[simp] theorem State.pushBits_maxlen (s : State) (bs : List Bool) : (s.pushBits bs).maxlen = s.maxlen := by rw [State.pushBits_eq]
@[simp] theorem State.pushBits_encBitcnt (s : State) (bs : List Bool) : (s.pushBits bs).encBitcnt = s.encBitcnt := by rw [State.pushBits_eq]
@[simp] theorem State.pushBits_padbits (s : State) (bs : List Bool) : (s.pushBits bs).padbits = s.padbits := by rw [State.pushBits_eq]
@[simp] theorem State.pushBits_decBitcnt (s : State) (bs : List Bool) : (s.pushBits bs).decBitcnt = s.decBitcnt := by rw [State.pushBits_eq]
@[simp] theorem State.pushBits_cursor (s : State) (bs : List Bool) : (s.pushBits bs).cursor = s.cursor := by rw [State.pushBits_eq]
@[simp] theorem State.pushBits_freq (s : State) (bs : List Bool) : (s.pushBits bs).freq = s.freq := by rw [State.pushBits_eq]
@[simp] theorem State.pushBits_node (s : State) (bs : List Bool) : (s.pushBits bs).node = s.node := by rw [State.pushBits_eq]
@[simp] theorem State.pushBits_code (s : State) (bs : List Bool) : (s.pushBits bs).code = s.code := by rw [State.pushBits_eq]
@[simp] theorem State.pushBits_pend (s : State) (bs : List Bool) : (s.pushBits bs).pend = s.pend := by rw [State.pushBits_eq]
@[simp] theorem State.pushBits_parg (s : State) (bs : List Bool) : (s.pushBits bs).parg = s.parg := by rw [State.pushBits_eq]
@[simp] theorem State.pushBits_params (s : State) (bs : List Bool) : (s.pushBits bs).params = s.params := by rw [State.pushBits_eq]
@[simp] theorem State.pushBits_rstN (s : State) (bs : List Bool) : (s.pushBits bs).rstN = s.rstN := by rw [State.pushBits_eq]
@[simp] theorem State.pushBits_rstCycles (s : State) (bs : List Bool) : (s.pushBits bs).rstCycles = s.rstCycles := by rw [State.pushBits_eq]
@[simp] theorem State.pushBits_resp (s : State) (bs : List Bool) : (s.pushBits bs).resp = s.resp := by rw [State.pushBits_eq]
@[simp] theorem State.pushBits_inputs (s : State) (bs : List Bool) : (s.pushBits bs).inputs = s.inputs := by rw [State.pushBits_eq]
@[simp] theorem State.pushBits_draws (s : State) (bs : List Bool) : (s.pushBits bs).draws = s.draws := by rw [State.pushBits_eq]

@[simp] theorem State.emitAll_arg0 (s : State) (bs : List Byte) : (s.emitAll bs).arg0 = s.arg0 := by rw [State.emitAll_eq]
@[simp] theorem State.emitAll_busy (s : State) (bs : List Byte) : (s.emitAll bs).busy = s.busy := by rw [State.emitAll_eq]
@[simp] theorem State.emitAll_done (s : State) (bs : List Byte) : (s.emitAll bs).done = s.done := by rw [State.emitAll_eq]
@[simp] theorem State.emitAll_err (s : State) (bs : List Byte) : (s.emitAll bs).err = s.err := by rw [State.emitAll_eq]
@[simp] theorem State.emitAll_treeValid (s : State) (bs : List Byte) : (s.emitAll bs).treeValid = s.treeValid := by rw [State.emitAll_eq]
@[simp] theorem State.emitAll_codeValid (s : State) (bs : List Byte) : (s.emitAll bs).codeValid = s.codeValid := by rw [State.emitAll_eq]
@[simp] theorem State.emitAll_mode (s : State) (bs : List Byte) : (s.emitAll bs).mode = s.mode := by rw [State.emitAll_eq]
@[simp] theorem State.emitAll_decPartial (s : State) (bs : List Byte) : (s.emitAll bs).decPartial = s.decPartial := by rw [State.emitAll_eq]
@[simp] theorem State.emitAll_errcode (s : State) (bs : List Byte) : (s.emitAll bs).errcode = s.errcode := by rw [State.emitAll_eq]
@[simp] theorem State.emitAll_errcmd (s : State) (bs : List Byte) : (s.emitAll bs).errcmd = s.errcmd := by rw [State.emitAll_eq]
@[simp] theorem State.emitAll_ieDone (s : State) (bs : List Byte) : (s.emitAll bs).ieDone = s.ieDone := by rw [State.emitAll_eq]
@[simp] theorem State.emitAll_ieErr (s : State) (bs : List Byte) : (s.emitAll bs).ieErr = s.ieErr := by rw [State.emitAll_eq]
@[simp] theorem State.emitAll_nsym (s : State) (bs : List Byte) : (s.emitAll bs).nsym = s.nsym := by rw [State.emitAll_eq]
@[simp] theorem State.emitAll_total (s : State) (bs : List Byte) : (s.emitAll bs).total = s.total := by rw [State.emitAll_eq]
@[simp] theorem State.emitAll_root (s : State) (bs : List Byte) : (s.emitAll bs).root = s.root := by rw [State.emitAll_eq]
@[simp] theorem State.emitAll_nnodes (s : State) (bs : List Byte) : (s.emitAll bs).nnodes = s.nnodes := by rw [State.emitAll_eq]
@[simp] theorem State.emitAll_maxlen (s : State) (bs : List Byte) : (s.emitAll bs).maxlen = s.maxlen := by rw [State.emitAll_eq]
@[simp] theorem State.emitAll_encBitcnt (s : State) (bs : List Byte) : (s.emitAll bs).encBitcnt = s.encBitcnt := by rw [State.emitAll_eq]
@[simp] theorem State.emitAll_padbits (s : State) (bs : List Byte) : (s.emitAll bs).padbits = s.padbits := by rw [State.emitAll_eq]
@[simp] theorem State.emitAll_decBitcnt (s : State) (bs : List Byte) : (s.emitAll bs).decBitcnt = s.decBitcnt := by rw [State.emitAll_eq]
@[simp] theorem State.emitAll_cursor (s : State) (bs : List Byte) : (s.emitAll bs).cursor = s.cursor := by rw [State.emitAll_eq]
@[simp] theorem State.emitAll_freq (s : State) (bs : List Byte) : (s.emitAll bs).freq = s.freq := by rw [State.emitAll_eq]
@[simp] theorem State.emitAll_node (s : State) (bs : List Byte) : (s.emitAll bs).node = s.node := by rw [State.emitAll_eq]
@[simp] theorem State.emitAll_code (s : State) (bs : List Byte) : (s.emitAll bs).code = s.code := by rw [State.emitAll_eq]
@[simp] theorem State.emitAll_pend (s : State) (bs : List Byte) : (s.emitAll bs).pend = s.pend := by rw [State.emitAll_eq]
@[simp] theorem State.emitAll_parg (s : State) (bs : List Byte) : (s.emitAll bs).parg = s.parg := by rw [State.emitAll_eq]
@[simp] theorem State.emitAll_params (s : State) (bs : List Byte) : (s.emitAll bs).params = s.params := by rw [State.emitAll_eq]
@[simp] theorem State.emitAll_rstN (s : State) (bs : List Byte) : (s.emitAll bs).rstN = s.rstN := by rw [State.emitAll_eq]
@[simp] theorem State.emitAll_rstCycles (s : State) (bs : List Byte) : (s.emitAll bs).rstCycles = s.rstCycles := by rw [State.emitAll_eq]
@[simp] theorem State.emitAll_resp (s : State) (bs : List Byte) : (s.emitAll bs).resp = s.resp := by rw [State.emitAll_eq]
@[simp] theorem State.emitAll_inputs (s : State) (bs : List Byte) : (s.emitAll bs).inputs = s.inputs := by rw [State.emitAll_eq]
@[simp] theorem State.emitAll_draws (s : State) (bs : List Byte) : (s.emitAll bs).draws = s.draws := by rw [State.emitAll_eq]
@[simp] theorem State.emitAll_acc (s : State) (bs : List Byte) : (s.emitAll bs).acc = s.acc := by rw [State.emitAll_eq]
@[simp] theorem State.emitAll_accN (s : State) (bs : List Byte) : (s.emitAll bs).accN = s.accN := by rw [State.emitAll_eq]

end Sys2Proof.Machine
end

