-- ==== Sys2Proof/Laws/PerInstr.lean ====
section
/-! SUPPORT. What is said of every command as syntax, one lemma per constructor. Family `EncodesInItsRow`: the word of the command
is hit by its own row of the opcode map (R125) and its OPC field is that row's (R120). -/

namespace Sys2Proof.Laws.EncodesInItsRow

/-- The word of i matches i's row, and bits 31:24 are the row's OPC. -/
def Statement (i : Instr) : Prop :=
  i.opcode.row.hits (encode i) = true ∧ opcOf (encode i) = opcOf i.opcode.pattern

theorem nop : Statement .nop := by unfold Statement; decide
theorem reset : Statement .reset := by unfold Statement; decide
theorem freqClr : Statement .freqClr := by unfold Statement; decide
theorem freqAdd (sym : Byte) : Statement (.freqAdd sym) := by
  unfold Statement; revert sym; decide +kernel
theorem freqSet (sym : Byte) : Statement (.freqSet sym) := by
  unfold Statement; revert sym; decide +kernel
theorem build : Statement .build := by unfold Statement; decide
theorem gen : Statement .gen := by unfold Statement; decide
theorem encStart : Statement .encStart := by unfold Statement; decide
theorem encSym (sym : Byte) : Statement (.encSym sym) := by
  unfold Statement; revert sym; decide +kernel
theorem encFlush : Statement .encFlush := by unfold Statement; decide
theorem decStart : Statement .decStart := by unfold Statement; decide
theorem decByte (byte : Byte) (nb : BitVec 4) : Statement (.decByte byte nb) := by
  unfold Statement; revert byte nb; decide +kernel
theorem decEnd : Statement .decEnd := by unfold Statement; decide

end Sys2Proof.Laws.EncodesInItsRow
end

