-- ==== Sys2Proof/Laws/Step.lean ====
section
/-! SUPPORT. One lemma per kind of input: what the step is, and how runs unfold. -/

namespace Sys2Proof.Machine

theorem run_zero (s : State) : Host.Core.run Sys2Proof.core 0 s = .next s := rfl

/-- A run of one more step, by its first step. -/
theorem run_succ {s t : State} (h : step s = .next t) (n : Nat) :
    Host.Core.run Sys2Proof.core (n + 1) s = Host.Core.run Sys2Proof.core n t := by
  have hc : Sys2Proof.core.step s = .next t := h
  simp only [Host.Core.run, hc]

theorem nextInput_cons {s : State} {i : Input} {rest : List Input} (h : s.inputs = i :: rest) : s.nextInput = i := by
  simp [State.nextInput, h]

theorem nextInput_nil {s : State} (h : s.inputs = []) : s.nextInput = .core := by
  simp [State.nextInput, h]

/-- A bus access with rst_n high (R96). -/
theorem step_bus {s : State} {op : BusOp} (hi : s.nextInput = .bus op) (hr : s.rstN = true) :
    step s = .next (s.takeInput.busAccess op) := by
  have hr' : s.takeInput.rstN = true := hr
  simp only [step, hi, inputStep, hr', if_true]

/-- The core's turn with a command in flight (R262). -/
theorem step_core_busy {s : State} (hi : s.nextInput = .core) (hr : s.rstN = true) (hb : s.busy = true) :
    step s = coreStep s.takeInput := by
  have hr' : s.takeInput.rstN = true := hr
  have hb' : s.takeInput.busy = true := hb
  simp only [step, hi, inputStep, hr', coreTurn, hb', if_true]

/-- The core's turn with nothing in flight (R279). -/
theorem step_core_idle {s : State} (hi : s.nextInput = .core) (hr : s.rstN = true) (hb : s.busy = false) :
    step s = .next s.takeInput := by
  have hr' : s.takeInput.rstN = true := hr
  have hb' : s.takeInput.busy = false := hb
  simp [step, hi, inputStep, hr', coreTurn, hb', -State.takeInput_rstN, -State.takeInput_busy]

/-- A clk edge with rst_n high. -/
theorem step_clk {s : State} (hi : s.nextInput = .clk) (hr : s.rstN = true) : step s = .next s.takeInput := by
  have hr' : s.takeInput.rstN = true := hr
  simp only [step, hi, inputStep, hr', if_true]

/-- A clk edge, or the core's turn, with rst_n low (R300). -/
theorem step_reset_edge {s : State} (hi : s.nextInput = .clk ∨ s.nextInput = .core) (hr : s.rstN = false) :
    step s = .next s.takeInput.resetEdge := by
  have hr' : s.takeInput.rstN = false := hr
  rcases hi with hi | hi <;> simp [step, hi, inputStep, hr', -State.takeInput_rstN]

/-- rst_n goes low (R300). -/
theorem step_rstLow {s : State} (hi : s.nextInput = .rstLow) : step s = .next s.takeInput.driveReset := by
  simp only [step, hi, inputStep]

/-- rst_n goes high (R302). -/
theorem step_rstHigh {s : State} (hi : s.nextInput = .rstHigh) : step s = releaseReset s.takeInput := by
  simp only [step, hi, inputStep]

/-- rst_n high stays high. -/
theorem releaseReset_high {s : State} (hr : s.rstN = true) : releaseReset s = .next s := by
  simp [releaseReset, hr]

/-- A bus access keeps the pins, the inputs and the parameters. -/
theorem memWrite_keeps (s : State) (addr v : Word) :
    (s.memWrite addr v).rstN = s.rstN ∧ (s.memWrite addr v).rstCycles = s.rstCycles ∧
    (s.memWrite addr v).inputs = s.inputs ∧ (s.memWrite addr v).draws = s.draws ∧
    (s.memWrite addr v).params = s.params := by
  rcases memWrite_cases s addr v with h | h | h | h | h <;> rw [h]
  · rcases accept_cases s v with ⟨_, h⟩ | ⟨_, _, h⟩ | ⟨_, _, _, h⟩ | ⟨_, _, _, h⟩ <;> rw [h] <;> simp
  all_goals simp [State.writeStatus, State.writeCtrl]

/-- `exec` keeps the pins, the inputs, the parameters and the model's bus fields. -/
theorem exec_keeps {i : Instr} {s t : State} (h : exec i s = .next t) :
    t.params = s.params ∧ t.rstN = s.rstN ∧ t.rstCycles = s.rstCycles ∧ t.resp = s.resp ∧ t.inputs = s.inputs ∧
    t.draws = s.draws := by
  rcases exec_cases h with ⟨rfl, rfl⟩ | ⟨-, -, s1, hb, rfl⟩ | ⟨-, e, -, rfl⟩
  · simp
  · have := commandBody_sameOutside hb
    unfold SameOutside at this
    simp [this]
  · simp

end Sys2Proof.Machine
end

