-- ==== Sys2Proof/Machine/Assembler.lean ====
section
/-! DEFINITION. The assembler syntax of spec/30_encoding.md R140, on lists of characters: one command a line, the mnemonic in
capitals, operands separated by a comma, numbers decimal, hexadecimal or a character literal, a comment after `;`. What R140
leaves open is in log entry 18. -/

namespace Sys2Proof.Machine.Assembler

/-- The mnemonics of R125. -/
def mnemonic : Opcode → String
  | .nop => "NOP"
  | .reset => "RESET"
  | .freqClr => "FREQ_CLR"
  | .freqAdd => "FREQ_ADD"
  | .freqSet => "FREQ_SET"
  | .build => "BUILD"
  | .gen => "GEN"
  | .encStart => "ENC_START"
  | .encSym => "ENC_SYM"
  | .encFlush => "ENC_FLUSH"
  | .decStart => "DEC_START"
  | .decByte => "DEC_BYTE"
  | .decEnd => "DEC_END"

/-- The text of a line before its comment. DESIGN CHOICE (log entry 18): every semicolon begins a comment, also one between
single quotes. -/
def stripComment (cs : List Char) : List Char := cs.takeWhile (· != ';')

/-- Blanks between the parts of a line. -/
def isBlank (c : Char) : Bool := c == ' ' || c == '\t'

/-- Without blanks at either end. -/
def trim (cs : List Char) : List Char := ((cs.dropWhile isBlank).reverse.dropWhile isBlank).reverse

/-- The value of a digit in a base of at most 16. -/
def digitValue (base : Nat) (c : Char) : Option Nat :=
  let v := if '0' ≤ c ∧ c ≤ '9' then c.toNat - '0'.toNat
    else if 'a' ≤ c ∧ c ≤ 'f' then c.toNat - 'a'.toNat + 10
    else if 'A' ≤ c ∧ c ≤ 'F' then c.toNat - 'A'.toNat + 10
    else 16
  if v < base then some v else none

/-- Digits, most significant first, after a value already read. -/
def digits (base : Nat) : Nat → List Char → Option Nat
  | acc, [] => some acc
  | acc, c :: cs =>
    match digitValue base c with
    | none => none
    | some v => digits base (acc * base + v) cs

/-- A number: a character literal, hexadecimal with 0x, or decimal. R140 gives literals for a symbol and the ASCII values;
DESIGN CHOICE (log entry 18): every operand may be a literal, BYTE and NB too, and any character stands for its code point, so
that 128 to 255 have one as well and a greater code point is out of every field's range. -/
def number : List Char → Option Nat
  | [] => none
  | ['\'', c, '\''] => some c.toNat
  | ['0', 'x'] => none
  | '0' :: 'x' :: c :: cs => digits 16 0 (c :: cs)
  | c :: cs => digits 10 0 (c :: cs)

/-- A number in the range of a field of n bits. -/
def field (n : Nat) (cs : List Char) : Option (BitVec n) :=
  match number (trim cs) with
  | none => none
  | some v => if v < 2 ^ n then some (BitVec.ofNat n v) else none

/-- The command of a mnemonic with its operands' texts: none for format N, one for S, two for B. -/
def withOperandTexts (o : Opcode) (ops : List (List Char)) : Option Instr :=
  match o.format, ops with
  | .n, [] => some (o.withOperands 0#32)
  | .s, [a] =>
    match field 8 a with
    | none => none
    | some sym => some (o.withOperands (sym.setWidth 32))
  | .b, [a, b] =>
    match field 8 a, field 4 b with
    | some byte, some nb => some (o.withOperands ((nb.setWidth 32 <<< 8) ||| byte.setWidth 32))
    | _, _ => none
  | _, _ => none

/-- The texts between commas; none of an empty text. DESIGN CHOICE (log entry 18): R140 does not say whether a comma between
single quotes is a literal or a separator; here every comma separates, so `ENC_SYM ','` gives no word. -/
def operandTexts (cs : List Char) : List (List Char) :=
  if trim cs = [] then [] else cs.splitOn ','

/-- The opcode a mnemonic names. -/
def opcodeNamed (cs : List Char) : Option Opcode :=
  (opcodeMap.map Row.opcode).find? (fun o => (mnemonic o).toList == cs)

/-- The command of one line; none for a line that holds no command. -/
def assembleLine (line : List Char) : Option Instr :=
  let text := trim (stripComment line)
  match opcodeNamed (text.takeWhile (fun c => !isBlank c)) with
  | none => none
  | some o => withOperandTexts o (operandTexts (text.dropWhile (fun c => !isBlank c)))

/-- The assembled word of one line (R140). -/
def assembleWord (line : List Char) : Option Word := (assembleLine line).map encode

end Sys2Proof.Machine.Assembler
end

