-- ==== Sys2Proof/Tests/Slice0.lean ====
section
/-! SUPPORT. Tests of the model, with expected results from spec/95_test_vectors.md, and for every statement with hypotheses a
state and operands that meet them (`witness_<statement>`). -/

namespace Sys2Proof.Tests

open Sys2Proof.Machine

set_option Elab.async false

/-! ## Helpers -/

/-- The state after one command. -/
def after (i : Instr) (s : State) : State := (stateOf (exec i s)).getD State.reset

/-- Whether a word decodes to a command. -/
def decodesTo (w : Word) (i : Instr) : Bool :=
  match decode w with
  | .ok j => decide (j = i)
  | .error _ => false

/-- Whether a word is refused, and why. -/
def refusedAs (w : Word) (e : DecodeError) : Bool :=
  match decode w with
  | .ok _ => false
  | .error f => decide (f = e)

/-- The state with a table of counts, one for each listed symbol. -/
def withCounts (l : List (Byte × Word)) (s : State) : State :=
  { l.foldl (fun t c => t.setFreq c.1 c.2) s with
    nsym := BitVec.ofNat 9 l.length, total := BitVec.ofNat 32 (l.map (fun c => c.2.toNat)).sum }

/-- The state with a tree. -/
def withTree (l : List Node) (root : NodeIdx) (s : State) : State :=
  { s with node := writeNodes 0 l s.node, root := root, nnodes := BitVec.ofNat 10 l.length, treeValid := true }

/-- The state with codes. -/
def withCodes (l : List (Byte × CodeEntry)) (maxlen : BitVec 8) (s : State) : State :=
  { s with code := l.foldl (fun c e => setCode c e.1 e.2) s.code, maxlen := maxlen, codeValid := true }

/-- The counts of "aabbbcc" (W1). -/
def counted : State := withCounts [(0x61#8, 2#32), (0x62#8, 3#32), (0x63#8, 2#32)] State.reset

/-- The tree V4.1. -/
def treeNodes : List Node :=
  [⟨true, 0x61#8, 2#32, 0x1FF#9, 0x1FF#9⟩, ⟨true, 0x62#8, 3#32, 0x1FF#9, 0x1FF#9⟩,
   ⟨true, 0x63#8, 2#32, 0x1FF#9, 0x1FF#9⟩, ⟨false, 0#8, 4#32, 0#9, 2#9⟩, ⟨false, 0#8, 7#32, 1#9, 3#9⟩]

/-- V4.1. -/
def built : State := withTree treeNodes 4#9 counted

/-- V5.1: a = 10, b = 0, c = 11. -/
def coded : State :=
  withCodes [(0x61#8, ⟨true, 2#8, 2#64⟩), (0x62#8, ⟨true, 1#8, 0#64⟩), (0x63#8, ⟨true, 2#8, 3#64⟩)] 2#8 built

/-- After ENC_START on V5.1. -/
def encoding : State := { coded with mode := .enc }

/-- After DEC_START on V5.1. -/
def decoding : State := { coded with mode := .dec, cursor := 4#9 }

/-- The tree V4.5 of one symbol, decoding. -/
def decodingOne : State :=
  { withTree [⟨true, 0x61#8, 4#32, 0x1FF#9, 0x1FF#9⟩] 0#9 (withCounts [(0x61#8, 4#32)] State.reset) with
    mode := .dec, cursor := 0#9 }

/-- The empty tree V4.6. -/
def builtEmpty : State := { State.reset with treeValid := true }

/-- OUT_DEPTH = 4. -/
def small (s : State) : State := { s with params := ⟨0, 0⟩ }

/-! ## Well-formedness and decoding (spec/95_test_vectors.md 2.1) -/

theorem test_wf_refuses_nb_nine : Instr.wf (.decByte 0xA1#8 9#4) = false := by decide
theorem test_wf_accepts_nb_eight : Instr.wf (.decByte 0xA1#8 8#4) = true := by decide

theorem test_decode_control :
    decodesTo 0b00000000000000000000000000000000#32 .nop = true ∧
    decodesTo 0b00000001000000000000000000000000#32 .reset = true := by decide
theorem test_decode_frequency :
    decodesTo 0b00010000000000000000000000000000#32 .freqClr = true ∧
    decodesTo 0b00010001000000000000000001100001#32 (.freqAdd 0x61#8) = true ∧
    decodesTo 0b00010010000000000000000011111111#32 (.freqSet 0xFF#8) = true := by decide
theorem test_decode_tree_and_codes :
    decodesTo 0b00100000000000000000000000000000#32 .build = true ∧
    decodesTo 0b00110000000000000000000000000000#32 .gen = true := by decide
theorem test_decode_encoder :
    decodesTo 0b01000000000000000000000000000000#32 .encStart = true ∧
    decodesTo 0b01000001000000000000000001100011#32 (.encSym 0x63#8) = true ∧
    decodesTo 0b01000010000000000000000000000000#32 .encFlush = true := by decide
theorem test_decode_decoder :
    decodesTo 0b01010000000000000000000000000000#32 .decStart = true ∧
    decodesTo 0b01010001000000000000100010100001#32 (.decByte 0xA1#8 8#4) = true ∧
    decodesTo 0b01010001000000000000001111100000#32 (.decByte 0xE0#8 3#4) = true ∧
    decodesTo 0b01010010000000000000000000000000#32 .decEnd = true := by decide
theorem test_decode_refuses_reserved_bits :
    refusedAs 0x00000001#32 .reservedBits = true ∧ refusedAs 0x01000001#32 .reservedBits = true ∧
    refusedAs 0x41000100#32 .reservedBits = true ∧ refusedAs 0x51001000#32 .reservedBits = true := by decide
theorem test_decode_refuses_unassigned :
    refusedAs 0x13000000#32 .unassignedOpc = true ∧ refusedAs 0xFF000000#32 .unassignedOpc = true := by decide
theorem test_decode_table_word : decodeTableWord 32 0x510003E0 = some (.decByte 0xE0#8 3#4) ∧
    decodeTableWord 32 0x13000000 = none := by decide

theorem test_assemble : Assembler.assembleWord "DEC_BYTE 0xA1, 8 ; two operands".toList = some 0x510008A1#32 ∧
    Assembler.assembleWord "FREQ_ADD 'a'".toList = some 0x11000061#32 ∧
    Assembler.assembleWord "ENC_SYM 256".toList = none := by decide +kernel

/-! ## The commands -/

/-- V2.1. -/
theorem test_nop : (after .nop State.reset).statusWord = 0x02#32 := by decide +kernel
/-- V2.2. -/
theorem test_reset_clears_fault : (after .reset (after .gen counted)).statusWord = 0#32 ∧
    (after .reset (after .gen counted)).errcmd = 0#32 ∧ (after .reset counted).freqAt 0x61#8 = 0#32 := by decide +kernel
/-- V3.8. -/
theorem test_freq_clr : (after .freqClr counted).freqAt 0x62#8 = 0#32 ∧ (after .freqClr counted).nsym = 0#9 ∧
    (after .freqClr counted).total = 0#32 := by decide +kernel
/-- V3.1. -/
theorem test_freq_add_twice : (after (.freqAdd 0x61#8) (after (.freqAdd 0x61#8) State.reset)).freqAt 0x61#8 = 2#32 ∧
    (after (.freqAdd 0x61#8) (after (.freqAdd 0x61#8) State.reset)).nsym = 1#9 := by decide +kernel
/-- V3.5. -/
theorem test_freq_add_overflows :
    (after (.freqAdd 0x62#8) (withCounts [(0x61#8, 0xFFFFFFFF#32)] State.reset)).errcode = some .overflow ∧
    (after (.freqAdd 0x62#8) (withCounts [(0x61#8, 0xFFFFFFFF#32)] State.reset)).freqAt 0x62#8 = 0#32 := by decide +kernel
/-- V3.2: a count of 0 removes the entry. -/
theorem test_freq_set_zero : (after (.freqSet 0x61#8) counted).nsym = 2#9 ∧
    (after (.freqSet 0x61#8) counted).total = 5#32 := by decide +kernel
/-- V3.6: the old count is replaced, so TOTAL does not overflow. -/
theorem test_freq_set_replaces :
    (after (.freqSet 0x61#8) { withCounts [(0x61#8, 0xFFFFFFFF#32)] State.reset with parg := 5#32 }).total = 5#32 ∧
    (after (.freqSet 0x61#8) { withCounts [(0x61#8, 0xFFFFFFFF#32)] State.reset with parg := 5#32 }).err = false := by
  decide +kernel
/-- V4.1. -/
theorem test_build : (after .build counted).root = 4#9 ∧ (after .build counted).nnodes = 5#10 ∧
    (List.range 5).map (fun i => (after .build counted).nodeAt (BitVec.ofNat 9 i)) = treeNodes := by decide +kernel
/-- V4.3, merge 2: at equal weights the lower index, leaf c, goes LEFT. -/
theorem test_build_ties : (after .build (withCounts
      [(0x61#8, 1#32), (0x62#8, 1#32), (0x63#8, 2#32), (0x64#8, 3#32), (0x65#8, 5#32)] State.reset)).nodeAt 6#9 =
    ⟨false, 0#8, 4#32, 2#9, 5#9⟩ := by decide +kernel
/-- V5.1. -/
theorem test_gen : (after .gen built).codeAt 0x61#8 = ⟨true, 2#8, 2#64⟩ ∧
    (after .gen built).codeAt 0x62#8 = ⟨true, 1#8, 0#64⟩ ∧ (after .gen built).codeAt 0x63#8 = ⟨true, 2#8, 3#64⟩ ∧
    (after .gen built).maxlen = 2#8 := by decide +kernel
/-- 2.5, error cases: GEN from reset. -/
theorem test_gen_needs_tree : (after .gen { State.reset with pend := 0x30000000#32 }).errcode = some .seq ∧
    (after .gen { State.reset with pend := 0x30000000#32 }).errcmd = 0x30000000#32 ∧
    (after .gen State.reset).statusWord = 0x06#32 := by decide +kernel
/-- V6.14. -/
theorem test_enc_start_needs_codes : (after .encStart built).errcode = some .seq := by decide +kernel
/-- P1, line 11. -/
theorem test_enc_start : (after .encStart coded).statusWord = 0x3A#32 := by decide +kernel
/-- V6.9. -/
theorem test_enc_sym : (after (.encSym 0x61#8) encoding).acc = 2#7 ∧ (after (.encSym 0x61#8) encoding).accN = 2#3 ∧
    (after (.encSym 0x61#8) encoding).encBitcnt = 2#32 ∧ (after (.encSym 0x61#8) encoding).outcnt = 0#17 := by
  decide +kernel
/-- P1, line 17: the seven bits 1010000 are pending and the code 11 completes the byte A1. -/
theorem test_enc_sym_completes_a_byte :
    (after (.encSym 0x63#8) { encoding with acc := 0x50#7, accN := 7#3 }).outByte 0 = 0xA1#8 ∧
    (after (.encSym 0x63#8) { encoding with acc := 0x50#7, accN := 7#3 }).accN = 1#3 := by decide +kernel
/-- V6.10. -/
theorem test_enc_flush : (after .encFlush { encoding with acc := 7#7, accN := 3#3, outcnt := 1#17 }).outByte 1 = 0xE0#8 ∧
    (after .encFlush { encoding with acc := 7#7, accN := 3#3, outcnt := 1#17 }).padbits = 5#3 := by decide +kernel
/-- V6.15. -/
theorem test_enc_flush_full : (after .encFlush (small { encoding with accN := 1#3, outcnt := 4#17 })).errcode =
    some .outfull := by decide +kernel
/-- V7.18 with V5.1: ROOT goes to CURSOR. -/
theorem test_dec_start : (after .decStart built).statusWord = 0x4A#32 ∧ (after .decStart built).cursor = 4#9 := by
  decide +kernel
/-- V7.1. -/
theorem test_dec_byte : outputBytes (after (.decByte 0xA1#8 8#4) decoding) = [0x61#8, 0x61#8, 0x62#8, 0x62#8, 0x62#8] ∧
    (after (.decByte 0xA1#8 8#4) decoding).cursor = 3#9 := by decide +kernel
/-- V7.9: the corrupt bit discards the symbol before it. -/
theorem test_dec_byte_bad_code : (after (.decByte 0x40#8 8#4) decodingOne).errcode = some .badcode ∧
    (after (.decByte 0x40#8 8#4) decodingOne).outcnt = 0#17 := by decide +kernel
/-- V7.4. -/
theorem test_dec_end : (after .decEnd { decoding with cursor := 3#9 }).statusWord = 0x9A#32 ∧
    (after .decEnd decoding).decPartial = false := by decide +kernel

/-! ## The bus, errors and reset -/

/-- 2.9: windows of W1, little-endian lanes. -/
theorem test_windows : coded.readOffset 0x584 0#32 = 2#32 ∧ coded.readOffset 0x1048 0#32 = 1#32 ∧
    coded.readOffset 0x1004 0#32 = 0x80000061#32 ∧ coded.readOffset 0x4610 0#32 = 0x80000002#32 ∧
    ({ coded with out := [(0, 0xA1#8), (1, 0xE0#8)], outcnt := 2#17 } : State).readOffset 0x10000 0x12345678#32 =
      0x1234E0A1#32 := by decide +kernel
/-- V8.12. -/
theorem test_read_id_and_params : State.reset.memRead 0x000#32 = 0x48554646#32 ∧
    State.reset.memRead 0x01C#32 = 0x00400810#32 ∧ (small State.reset).memRead 0x01C#32 = 0x00400802#32 := by decide +kernel
/-- V8.2. -/
theorem test_busy_error : ((State.reset.accept 0x11000061#32).accept 0x11000062#32).statusWord = 0x05#32 ∧
    ((State.reset.accept 0x11000061#32).accept 0x11000062#32).errcmd = 0x11000062#32 := by decide +kernel
/-- V8.9. -/
theorem test_irq : (after .gen { State.reset with ieErr := true }).irq = true := by decide +kernel
/-- 2.1: an illegal word is latched, and completes with E_ILLEGAL. -/
theorem test_illegal_word : (stateOf (coreTurn (State.reset.accept 0x01000001#32))).map State.statusWord = some 0x06#32 := by
  decide +kernel
theorem test_reset_memory_wf : Memory.wf State.reset.out = true := by decide
/-- Writing the value an unlisted byte reads as takes the entry away. -/
theorem test_memory_canonical : Memory.write [(1, 5#8), (3, 7#8)] 1 0#8 = [(3, 7#8)] ∧
    Memory.write [(1, 5#8), (3, 7#8)] 2 9#8 = [(1, 5#8), (2, 9#8), (3, 7#8)] := by decide
/-- V3.10: `withFetchWord` latches ARG0, and the step runs the word. -/
theorem test_fetch_word : (stateOf (step ({ State.reset with arg0 := 7#32 }.withFetchWord 32 0x12000061))).map
    (fun t => t.freqAt 0x61#8) = some 7#32 := by decide +kernel

/-! ## Witnesses: states and operands that meet the hypotheses of the statements -/

/-- A command that is not stopped: `after` is its next state. -/
theorem exec_after (i : Instr) (s : State) : exec i s = .next (after i s) := by
  obtain ⟨t, ht⟩ := exec_next i s
  simp [after, ht, stateOf]

/-- In FAULT after E_SEQ of a GEN. -/
def faulted : State := { counted with err := true, done := true, errcode := some .seq, errcmd := 0x30000000#32 }

/-- One short path and one of n internal nodes: node i has the leaf at index n as RIGHT. -/
def comb (n : Nat) : List Node :=
  (List.range n).map (fun i => ⟨false, 0#8, 1#32, BitVec.ofNat 9 (i + 1), BitVec.ofNat 9 n⟩) ++
    [⟨true, 0x61#8, 1#32, 0x1FF#9, 0x1FF#9⟩]

theorem witness_EncodeOfDecodeIsTheWord : decode 0x510008A1#32 = .ok (.decByte 0xA1#8 8#4) := rfl

theorem witness_IllegalWordsEndInEIllegal :
    (∃ e, decode 0x00000001#32 = .error e) ∧ (∃ e, decode 0x13000000#32 = .error e) ∧
    (∃ e, decode 0x41000100#32 = .error e) ∧ (∃ e, decode 0x51001000#32 = .error e) ∧
    counted.err = false ∧ counted.busy = false ∧ counted.errcode = none :=
  ⟨⟨_, rfl⟩, ⟨_, rfl⟩, ⟨_, rfl⟩, ⟨_, rfl⟩, by decide +kernel, by decide +kernel, by decide +kernel⟩

theorem witness_StepRunsTheDecodedCommand :
    (counted.latch 0x20000000#32).rstN = true ∧ (counted.latch 0x20000000#32).busy = true ∧
    (counted.latch 0x20000000#32).nextInput = .core ∧ decode (counted.latch 0x20000000#32).pend = .ok .build ∧
    alignAddr 0x004#32 = 0x004 ∧ alignAddr 0x007#32 = 0x004 ∧
    ({ counted with inputs := [.bus (.write 0x007#32 resetWord)] } : State).rstN = true ∧
    ({ counted with inputs := [.bus (.write 0x007#32 resetWord)] } : State).nextInput = .bus (.write 0x007#32 resetWord) ∧
    Instr.build ≠ Instr.reset :=
  ⟨by decide +kernel, by decide +kernel, by decide +kernel, rfl, by decide, by decide, by decide +kernel,
    by decide +kernel, by decide⟩

theorem witness_AcceptanceHasFourCases :
    alignAddr 0x004#32 = 0x004 ∧ alignAddr 0x007#32 = 0x004 ∧ alignAddr 0x008#32 ≠ 0x004 ∧ (0x01000001#32 : Word) ≠ 0x01000000#32 ∧
    faulted.err = true ∧ (counted.latch 0#32).err = false ∧ (counted.latch 0#32).busy = true ∧ counted.err = false ∧
    counted.busy = false := by decide +kernel

theorem witness_EveryLatchedCommandCompletes :
    counted.busy = false ∧ (counted.latch 0x20000000#32).busy = true ∧ (counted.latch 0x20000000#32).pend ≠ resetWord := by
  decide +kernel

theorem witness_TakingAnErrorKeepsTheRest : counted.errcode = none ∧ faulted.errcode ≠ none := by decide +kernel

theorem witness_CommandsAreAllOrNothing : Instr.gen ≠ .reset ∧ counted.err = false ∧
    exec .gen counted = .next (after .gen counted) ∧ (after .gen counted).err = true :=
  ⟨by decide, by decide +kernel, exec_after _ _, by decide +kernel⟩

theorem witness_PreconditionsRaiseESeq : built.treeValid = true ∧ ¬ (coded.treeValid = true ∧ coded.codeValid = false) ∧
    ¬ (counted.treeValid = true ∧ counted.codeValid = false) ∧ ¬ (built.codeValid = true ∧ built.mode = .idle) ∧
    ¬ (encoding.codeValid = true ∧ encoding.mode = .idle) ∧ decoding.mode ≠ .enc ∧
    ¬ (counted.treeValid = true ∧ counted.mode = .idle) ∧ ¬ (encoding.treeValid = true ∧ encoding.mode = .idle) ∧
    encoding.mode ≠ .dec := by decide +kernel

/-- An idle state steps to itself, the bus answer gone. -/
theorem step_idle {s : State} (hi : s.inputs = []) (hr : s.rstN = true) (hb : s.busy = false) :
    step s = .next s.takeInput := step_core_idle (nextInput_nil hi) hr hb

/-- A command in flight steps. -/
theorem step_latched (w : Word) {s : State} (hi : s.inputs = []) (hr : s.rstN = true) : ∃ t, step (s.latch w) = .next t := by
  obtain ⟨t, ht⟩ := coreStep_next (s.latch w).takeInput
  exact ⟨t, (step_core_busy (s := s.latch w) (nextInput_nil hi) hr rfl).trans ht⟩

theorem witness_FaultHoldsUntilReset : faulted.err = true ∧ faulted.errcode ≠ none ∧ LatchHoldsNoReset faulted ∧
    step faulted = .next faulted.takeInput := by
  refine ⟨rfl, by decide +kernel, ?_, step_idle (by decide +kernel) (by decide +kernel) (by decide +kernel)⟩
  intro h
  exact absurd h (by decide +kernel)

theorem witness_IrqIsALevelOfTheState : (0x2#32 : Word).getLsbD 1 = true ∧ counted.err = false ∧ counted.busy = false ∧
    faulted.err = true ∧ ¬ (alignAddr 0x004#32 = 0x004 ∧ (0x20000000#32 : Word) = resetWord) ∧
    ¬ (alignAddr 0x018#32 = 0x004 ∧ (0#32 : Word) = resetWord) ∧ Instr.build ≠ Instr.reset := by decide +kernel

theorem witness_NopOnlyCompletes : opcOf 0x00000000#32 = 0x00#8 ∧ opcOf 0x00000001#32 = 0x00#8 ∧ faulted.err = true ∧
    (counted.latch 0x20000000#32).err = false ∧ (counted.latch 0x20000000#32).busy = true := by decide +kernel

theorem witness_ResetCommandPerformsResetAll : opcOf 0x01000001#32 = 0x01#8 ∧ (0x01000001#32 : Word) ≠ 0x01000000#32 := by
  decide

theorem witness_CommandsInFlightComplete : (counted.latch 0x20000000#32).rstN = true ∧ (counted.latch 0x20000000#32).busy = true ∧
    Input.rstLow ∉ (counted.latch 0x20000000#32).inputs := by decide +kernel

theorem witness_CommandLineIssuesTheCommand : counted.rstN = true ∧
    ({ counted with inputs := HostProgram.command .build ++ [.clk] } : State).inputs =
      HostProgram.command .build ++ [.clk] := ⟨by decide +kernel, rfl⟩

theorem witness_EachCommandHasItsFrame :
    exec .nop counted = .next (after .nop counted) ∧ exec .freqClr counted = .next (after .freqClr counted) ∧
    exec (.freqAdd 0x61#8) counted = .next (after (.freqAdd 0x61#8) counted) ∧ (0x62#8 : Byte) ≠ 0x61#8 ∧
    exec (.freqSet 0x61#8) counted = .next (after (.freqSet 0x61#8) counted) ∧
    exec .build counted = .next (after .build counted) ∧ exec .gen built = .next (after .gen built) ∧
    exec .encStart coded = .next (after .encStart coded) ∧
    exec (.encSym 0x61#8) encoding = .next (after (.encSym 0x61#8) encoding) ∧
    exec .encFlush encoding = .next (after .encFlush encoding) ∧ exec .decStart coded = .next (after .decStart coded) ∧
    exec (.decByte 0xA1#8 8#4) decoding = .next (after (.decByte 0xA1#8 8#4) decoding) ∧
    exec .decEnd decoding = .next (after .decEnd decoding) :=
  ⟨exec_after _ _, exec_after _ _, exec_after _ _, by decide, exec_after _ _, exec_after _ _, exec_after _ _,
    exec_after _ _, exec_after _ _, exec_after _ _, exec_after _ _, exec_after _ _, exec_after _ _⟩

theorem witness_OnlyNewOutputBytesChange : Memory.wf decoding.out = true ∧
    exec (.decByte 0xA1#8 8#4) decoding = .next (after (.decByte 0xA1#8 8#4) decoding) ∧
    (after (.decByte 0xA1#8 8#4) decoding).outcnt = 5#17 ∧
    exec .build counted = .next (after .build counted) :=
  ⟨by decide +kernel, exec_after _ _, by decide +kernel, exec_after _ _⟩

theorem witness_FreqClrClearsTheTable : built.treeValid = true ∧ counted.treeValid = false := by decide +kernel

theorem witness_FreqAddCountsOne : built.treeValid = true ∧ counted.treeValid = false ∧ counted.total ≠ 0xFFFFFFFF#32 ∧
    (withCounts [(0x61#8, 0xFFFFFFFF#32)] State.reset).treeValid = false ∧
    (withCounts [(0x61#8, 0xFFFFFFFF#32)] State.reset).total = 0xFFFFFFFF#32 := by decide +kernel

/-- The largest sum that fits, and one more (R162). -/
theorem witness_FreqSetLoadsTheCount : built.treeValid = true ∧ counted.treeValid = false ∧
    (counted.freqAt 0x61#8).toNat ≤ counted.total.toNat ∧ counted.nsym.toNat ≤ 256 ∧ 1 ≤ counted.nsym.toNat ∧
    counted.total.toNat - (counted.freqAt 0x61#8).toNat + (0xFFFFFFFA#32 : Word).toNat = 0xFFFFFFFF ∧
    0xFFFFFFFF < counted.total.toNat - (counted.freqAt 0x61#8).toNat + (0xFFFFFFFB#32 : Word).toNat := by decide +kernel

theorem witness_FreqTextCountsOccurrences : ([0x61#8, 0x62#8] : List Byte).length ≤ 0xFFFFFFFF ∧
    0xFFFFFFFF < (List.replicate 0x100000000 0x61#8 : List Byte).length := by
  refine ⟨by decide, ?_⟩
  rw [List.length_replicate]
  decide

theorem witness_TablesAreFrozenOnceBuilt : coded.treeValid = true ∧ coded.codeValid = true ∧
    step coded = .next coded.takeInput ∧ coded.takeInput.treeValid = true :=
  ⟨by decide +kernel, by decide +kernel, step_idle (by decide +kernel) (by decide +kernel) (by decide +kernel),
    by decide +kernel⟩

theorem witness_BuildPlacesLeavesInOrder : counted.treeValid = false ∧ presentSymbols counted.freq = 3 ∧
    counted.freqAt 0x63#8 ≠ 0#32 := by decide +kernel

theorem witness_BuildMergesTheTwoSmallest : counted.treeValid = false ∧ 2 ≤ presentSymbols counted.freq ∧
    presentSymbols counted.freq ≤ 4 ∧ 4 < (after .build counted).nnodes.toNat := by decide +kernel

theorem witness_BuildOfOneOrNoSymbol : State.reset.treeValid = false ∧ presentSymbols State.reset.freq = 0 ∧
    (withCounts [(0x61#8, 4#32)] State.reset).treeValid = false ∧
    presentSymbols (withCounts [(0x61#8, 4#32)] State.reset).freq = 1 := by decide +kernel

theorem counted_freqConsistent : FreqConsistent counted := by
  unfold FreqConsistent
  decide +kernel

theorem witness_WeightsNeverWrap : FreqConsistent counted ∧ counted.treeValid = false ∧ 1 ≤ presentSymbols counted.freq ∧
    exec .build counted = .next (after .build counted) ∧ presentSymbols counted.freq ≤ 3 ∧
    3 < (after .build counted).nnodes.toNat :=
  ⟨counted_freqConsistent, by decide +kernel, by decide +kernel, exec_after _ _, by decide +kernel, by decide +kernel⟩

theorem witness_TreesAreAtMost45Deep : FreqConsistent counted ∧ counted.treeValid = false ∧
    1 ≤ presentSymbols counted.freq ∧ exec .build counted = .next (after .build counted) ∧ counted.codeValid = false :=
  ⟨counted_freqConsistent, by decide +kernel, by decide +kernel, exec_after _ _, by decide +kernel⟩

/-- A path of 64 internal nodes is the longest that is shallow, one of 65 the shortest that is not. -/
theorem witness_GenWritesThePathsOfTheTree : built.treeValid = true ∧ built.codeValid = false ∧ built.root ≠ NIL ∧
    (built.nodeAt built.root).leaf = false ∧ shallow built.node 64 built.root = true ∧
    (withTree (comb 64) 0#9 State.reset).root ≠ NIL ∧
    ((withTree (comb 64) 0#9 State.reset).nodeAt 0#9).leaf = false ∧
    shallow (withTree (comb 64) 0#9 State.reset).node 64 0#9 = true ∧
    (withTree (comb 65) 0#9 State.reset).treeValid = true ∧ (withTree (comb 65) 0#9 State.reset).codeValid = false ∧
    ((withTree (comb 65) 0#9 State.reset).nodeAt 0#9).leaf = false ∧
    shallow (withTree (comb 65) 0#9 State.reset).node 64 0#9 = false := by decide +kernel

theorem witness_GenOfOneSymbolIsZero : decodingOne.treeValid = true ∧ decodingOne.codeValid = false ∧
    decodingOne.root ≠ NIL ∧ (decodingOne.nodeAt decodingOne.root).leaf = true := by decide +kernel

/-- GEN's answer as data that can be compared. -/
def genAnswer (s : State) : Option (CodeTable × Nat) :=
  match genCodes s with
  | .ok r => some r
  | .error _ => none

theorem codesAreGenerated_of_answer {s : State} (h : genAnswer s = some (s.code, s.maxlen.toNat)) : CodesAreGenerated s := by
  intro _
  unfold genAnswer at h
  split at h
  · next r hr => rw [hr, Option.some.inj h]
  · cases h

/-- After GEN and ENC_START on the empty tree. -/
def encodingEmpty : State := withCodes [] 0#8 { builtEmpty with mode := .enc }

theorem witness_GenOfTheEmptyTree : builtEmpty.treeValid = true ∧ builtEmpty.codeValid = false ∧ builtEmpty.root = NIL ∧
    exec .encStart (after .gen builtEmpty) = .next (after .encStart (after .gen builtEmpty)) ∧
    (after .encStart (after .gen builtEmpty)).mode = .enc ∧ CodesAreGenerated encodingEmpty ∧
    encodingEmpty.codeValid = true ∧ encodingEmpty.root = NIL ∧ encodingEmpty.mode = .enc :=
  ⟨by decide +kernel, by decide +kernel, by decide +kernel, exec_after _ _, by decide +kernel,
    codesAreGenerated_of_answer (by decide +kernel), by decide +kernel, by decide +kernel, by decide +kernel⟩

/-- The three symbols of `coded` and no others have codes. -/
theorem coded_symbols : ∀ sym : Byte, (coded.codeAt sym).valid = true → sym = 0x61#8 ∨ sym = 0x62#8 ∨ sym = 0x63#8 := by
  decide +kernel

theorem coded_codesMatchTree : CodesMatchTree coded := by
  intro sym h
  have hl : ¬ (coded.nodeAt coded.root).leaf = true := by decide +kernel
  have ha : codeString (coded.codeAt 0x61#8) = [true, false] := by decide +kernel
  have hb : codeString (coded.codeAt 0x62#8) = [false] := by decide +kernel
  have hc : codeString (coded.codeAt 0x63#8) = [true, true] := by decide +kernel
  rcases coded_symbols sym h with rfl | rfl | rfl <;> refine ⟨by decide +kernel, ?_⟩ <;> rw [if_neg hl]
  · rw [ha]
    refine ⟨⟨?_, ?_, ?_⟩, ?_⟩ <;> (try unfold LeafPath) <;> decide +kernel
  · rw [hb]
    refine ⟨⟨?_, ?_⟩, ?_⟩ <;> (try unfold LeafPath) <;> decide +kernel
  · rw [hc]
    refine ⟨⟨?_, ?_, ?_⟩, ?_⟩ <;> (try unfold LeafPath) <;> decide +kernel

theorem witness_CodesArePrefixFree : CodesMatchTree coded ∧ (coded.codeAt 0x61#8).valid = true ∧
    (coded.codeAt 0x62#8).valid = true ∧ (0x61#8 : Byte) ≠ 0x62#8 :=
  ⟨coded_codesMatchTree, by decide +kernel, by decide +kernel, by decide⟩

/-- `coded` is the state W1 describes: a good one. -/
theorem coded_treeIsBuilt : TreeIsBuilt coded := by
  intro _
  refine ⟨by decide +kernel, by decide +kernel, ?_⟩
  intro i n h
  have hb : (buildTree coded.freq).1 = treeNodes := by decide +kernel
  rw [hb] at h
  have hi : i < 5 := by
    obtain ⟨hi, -⟩ := List.getElem?_eq_some_iff.mp h
    exact hi
  have hk : ∀ j : Fin 5, treeNodes[j.val]? = coded.node.get? j.val := by decide +kernel
  rw [← h]
  exact (hk ⟨i, hi⟩).symm

theorem coded_codesAreGenerated : CodesAreGenerated coded := codesAreGenerated_of_answer (by decide +kernel)

theorem decoding_inv : Inv decoding where
  freq := by unfold FreqConsistent; decide +kernel
  phase := by unfold PhaseOrdered; decide +kernel
  tree := coded_treeIsBuilt
  codes := coded_codesAreGenerated
  enc := by unfold EncoderInStep; decide +kernel
  dec := by unfold DecoderInTree; decide +kernel
  out := by unfold OutputBounded; decide +kernel
  errors := by unfold ErrorsConsistent; decide +kernel
  latch := by unfold LatchHoldsNoReset; decide +kernel

theorem encoding_inStep : EncoderInStep encoding ∧ encoding.mode = .enc := by
  unfold EncoderInStep
  decide +kernel

theorem witness_GoodStatesHaveTheTreesCodes : Inv decoding ∧ decoding.codeValid = true :=
  ⟨decoding_inv, by decide +kernel⟩

theorem witness_EncStartBeginsAnEncoding : ¬ (built.codeValid = true ∧ built.mode = .idle) ∧ coded.codeValid = true ∧
    coded.mode = .idle := by decide +kernel

theorem witness_PushBitFillsBytesFromBitSeven : Memory.wf encoding.out = true ∧ encoding.accN ≠ 7#3 ∧
    ({ encoding with accN := 6#3 } : State).accN ≠ 7#3 ∧ ({ encoding with accN := 7#3 } : State).accN = 7#3 := by
  decide +kernel

/-- The third and fourth cases at the boundary: one byte of room or none for the byte that 'a' completes. -/
theorem witness_EncSymAppendsTheCode : coded.mode ≠ .enc ∧ encoding.mode = .enc ∧
    (encoding.codeAt 0x64#8).valid = false ∧ (encoding.codeAt 0x61#8).valid = true ∧
    (let s := small { encoding with accN := 6#3, outcnt := 4#17 }
     s.outDepth < s.outcnt.toNat + (s.accN.toNat + (s.codeAt 0x61#8).len.toNat) / 8) ∧
    (let s := small { encoding with accN := 6#3, outcnt := 3#17 }
     s.outcnt.toNat + (s.accN.toNat + (s.codeAt 0x61#8).len.toNat) / 8 ≤ s.outDepth) := by decide +kernel

theorem witness_EncFlushPadsTheLastByte : coded.mode ≠ .enc ∧ encoding.mode = .enc ∧ encoding.accN = 0#3 ∧
    ({ encoding with accN := 1#3 } : State).accN ≠ 0#3 ∧ Memory.wf encoding.out = true ∧
    (let s := small { encoding with accN := 1#3, outcnt := 4#17 }; s.outDepth < s.outcnt.toNat + 1) ∧
    (let s := small { encoding with accN := 7#3, outcnt := 3#17 }; s.outcnt.toNat + 1 ≤ s.outDepth) := by decide +kernel

/-- "aabbbcc". -/
def text : List Byte := [0x61#8, 0x61#8, 0x62#8, 0x62#8, 0x62#8, 0x63#8, 0x63#8]

theorem text_coded : ∀ b ∈ text, (coded.codeAt b).valid = true := by decide +kernel

theorem coded_output : OutputBounded coded := by
  unfold OutputBounded
  decide +kernel

theorem witness_EncodingWritesTheBitString : coded.err = false ∧ coded.busy = false ∧ coded.codeValid = true ∧
    coded.mode = .idle ∧ OutputBounded coded ∧ (∀ b ∈ text, (coded.codeAt b).valid = true) ∧
    ((textBits coded text).length + 7) / 8 ≤ coded.outDepth :=
  ⟨by decide +kernel, by decide +kernel, by decide +kernel, by decide +kernel, coded_output, text_coded, by decide +kernel⟩

/-- 33 one-bit codes need five bytes. -/
theorem witness_EncodingWithoutRoomFaults : (small coded).err = false ∧ (small coded).errcode = none ∧
    (small coded).busy = false ∧ (small coded).codeValid = true ∧ (small coded).mode = .idle ∧
    (∀ b ∈ List.replicate 33 0x62#8, ((small coded).codeAt b).valid = true) ∧
    (small coded).outDepth < ((textBits (small coded) (List.replicate 33 0x62#8)).length + 7) / 8 := by decide +kernel

theorem witness_DecStartBeginsADecoding : ¬ (counted.treeValid = true ∧ counted.mode = .idle) ∧ built.treeValid = true ∧
    built.mode = .idle := by decide +kernel

/-- The empty tree, a leaf under the cursor, an internal node under the cursor with a leaf and an internal child. -/
theorem witness_TreeStepFollowsOneBit : builtEmpty.root = NIL ∧ decodingOne.root ≠ NIL ∧
    (decodingOne.nodeAt 0#9).leaf = true ∧ decoding.root ≠ NIL ∧ (decoding.nodeAt 4#9).leaf = false ∧
    (decoding.nodeAt (decoding.nodeAt 4#9).left).leaf = true ∧
    (decoding.nodeAt (decoding.nodeAt 4#9).right).leaf = false := by decide +kernel

/-- A walk as data that can be compared. -/
def walkAnswer (s : State) (bits : List Bool) : Option ErrCode × List Byte :=
  match walkBits s s.cursor bits with
  | .ok (_, es) => (none, es)
  | .error e => (some e, [])

theorem walk_ok {s : State} {bits : List Bool} {es : List Byte} (h : walkAnswer s bits = (none, es)) :
    ∃ cur, walkBits s s.cursor bits = .ok (cur, es) := by
  unfold walkAnswer at h
  split at h
  · next cur es' hw =>
    obtain ⟨-, rfl⟩ := Prod.mk.inj h
    exact ⟨cur, hw⟩
  · exact absurd (Prod.mk.inj h).1 (by simp)

/-- DEC_BYTE with NB = 9 and NB = 8, a walk with an error, and a walk of one symbol with and without room for it. -/
theorem witness_DecByteEmitsTheWalkedSymbols : coded.mode ≠ .dec ∧ decoding.mode = .dec ∧ 8 < (9#4 : BitVec 4).toNat ∧
    (8#4 : BitVec 4).toNat ≤ 8 ∧ Memory.wf decoding.out = true ∧
    (walkAnswer decodingOne ((List.range 2).map (fun j => (0x40#8 : Byte).getLsbD (7 - j)))).1 = some .badcode ∧
    (∃ cur, walkBits (small { decoding with outcnt := 4#17 }) 4#9 [false] = .ok (cur, [0x62#8])) ∧
    (small { decoding with outcnt := 4#17 }).outDepth < 4 + 1 ∧
    (∃ cur, walkBits (small { decoding with outcnt := 3#17 }) 4#9 [false] = .ok (cur, [0x62#8])) ∧
    3 + 1 ≤ (small { decoding with outcnt := 3#17 }).outDepth :=
  ⟨by decide +kernel, by decide +kernel, by decide, by decide, by decide +kernel, by decide +kernel,
    walk_ok (s := small { decoding with outcnt := 4#17 }) (by decide +kernel), by decide +kernel,
    walk_ok (s := small { decoding with outcnt := 3#17 }) (by decide +kernel), by decide +kernel⟩

theorem witness_DecEndReportsAPartialCode : coded.mode ≠ .dec ∧ decoding.mode = .dec ∧ decoding.cursor = decoding.root ∧
    ({ decoding with cursor := 3#9 } : State).cursor ≠ decoding.root := by decide +kernel

theorem witness_EveryBitStringWalksATree : Inv decoding ∧ decoding.mode = .dec ∧ 2 ≤ decoding.nsym.toNat :=
  ⟨decoding_inv, by decide +kernel, by decide +kernel⟩

/-- A command that is accepted and runs to its end gives a next state. -/
theorem issueAll_some (s : State) (is : List Instr) : ∃ t, issueAll s is = some t := by
  induction is generalizing s with
  | nil => exact ⟨s, rfl⟩
  | cons i is ih =>
    have : ∃ u, issue s i = some u := by
      unfold issue coreTurn
      split
      · obtain ⟨u, hu⟩ := coreStep_next (s.accept (encode i))
        exact ⟨u, by rw [hu]; rfl⟩
      · exact ⟨_, rfl⟩
    obtain ⟨u, hu⟩ := this
    simp only [issueAll, hu]
    exact ih u

theorem witness_DecodingInvertsEncoding : coded.err = false ∧ coded.busy = false ∧ coded.treeValid = true ∧
    coded.codeValid = true ∧ coded.mode = .idle ∧ OutputBounded coded ∧ CodesMatchTree coded ∧
    (∀ b ∈ text, (coded.codeAt b).valid = true) ∧ text.length ≤ coded.outDepth ∧
    ∃ t, issueAll coded (encodeCommands text) = some t ∧ t.err = false := by
  refine ⟨by decide +kernel, by decide +kernel, by decide +kernel, by decide +kernel, by decide +kernel, coded_output,
    coded_codesMatchTree, text_coded, by decide +kernel, ?_⟩
  obtain ⟨t, ht⟩ := issueAll_some coded (encodeCommands text)
  have he : (issueAll coded (encodeCommands text)).map State.err = some false := by decide +kernel
  rw [ht] at he
  exact ⟨t, ht, Option.some.inj he⟩

theorem witness_ReadsReturnTheRegisters : coded.busy = false := by decide +kernel

/-- Both ends of the NODE, CODE and OUT windows that are exact, and of the reserved ranges. -/
theorem witness_WindowsShowTheTables : coded.busy = false ∧ coded.treeValid = true ∧ coded.nnodes.toNat = 5 ∧
    coded.codeValid = true ∧
    (let s := small { coded with outcnt := 4#17 }; s.busy = false ∧ 4 * 0 + 3 < s.outcnt.toNat ∧ 4 * 0 + 3 < s.outDepth) ∧
    (0x048 % 4 = 0 ∧ 0x048 ≤ 0x048) ∧ (0x3FC % 4 = 0 ∧ 0x3FC < 0x400) ∧ (0x2FF0 % 4 = 0 ∧ 0x2FF0 < 0x4000) ∧
    (0x10004 % 4 = 0 ∧ 0x10000 + (small coded).outDepth ≤ 0x10004) := by decide +kernel

theorem witness_UnspecifiedReadsAreFreeDraws : (coded.latch 0#32).busy = true ∧ (0x020 ≤ 0x044 ∧ 0x044 < 0x048 ∧ 0x044 % 4 = 0) ∧
    (0x1000 ≤ 0x1050 ∧ 0x1050 < 0x2FF0 ∧ coded.nnodes.toNat ≤ (0x1050 - 0x1000) / 16) ∧ counted.treeValid = false ∧
    (0x4000 ≤ 0x4FFC ∧ 0x4FFC < 0x5000 ∧ 0x4FFC % 4 = 0) ∧ built.codeValid = false ∧ coded.busy = false ∧
    (0x10000 ≤ 0x10000 ∧ 0x10000 < 0x10000 + (small { coded with outcnt := 2#17 }).outDepth) ∧
    coded.treeValid = true ∧ (0x104C % 4 = 0 ∧ 0x104C < 0x2FF0 ∧ (0x104C - 0x1000) / 16 < coded.nnodes.toNat) ∧
    coded.codeValid = true ∧ 0x10000 - 0x10000 + 1 < ({ coded with outcnt := 2#17 } : State).outcnt.toNat ∧
    ({ coded with outcnt := 2#17 } : State).outcnt.toNat ≤ 0x10000 - 0x10000 + 2 := by decide +kernel

theorem witness_WritesActAtFourOffsets : alignAddr 0x008#32 = 0x008 ∧ alignAddr 0x00B#32 = 0x008 ∧
    alignAddr 0x00F#32 = 0x00C ∧ alignAddr 0x01B#32 = 0x018 ∧ alignAddr 0x584#32 ≠ 0x004 ∧ alignAddr 0x584#32 ≠ 0x008 ∧
    alignAddr 0x584#32 ≠ 0x00C ∧ alignAddr 0x584#32 ≠ 0x018 ∧ alignAddr 0x003#32 ≠ 0x004 := by decide

theorem witness_ReadsHaveNoSideEffect : (0x10000#32 : Word).extractLsb' 2 30 = (0x10003#32 : Word).extractLsb' 2 30 := by decide

/-- Two tables that differ in an entry no read shows. -/
theorem witness_UnspecifiedContentsAreNotRead :
    (built.treeValid = true → ∀ i, i < built.nnodes.toNat →
      (built.node.set 5 ⟨true, 1#8, 1#32, 1#9, 1#9⟩).get? i = built.node.get? i) ∧
    (built.codeValid = true → setCode built.code 0#8 ⟨true, 1#8, 1#64⟩ = built.code) ∧
    (∀ j, j < built.outcnt.toNat → Memory.read [(7, 9#8)] j = built.outByte j) := by
  have hn : built.nnodes.toNat = 5 := by decide +kernel
  have ho : built.outcnt.toNat = 0 := by decide +kernel
  have hk : ∀ j : Fin 5, (built.node.set 5 ⟨true, 1#8, 1#32, 1#9, 1#9⟩).get? j.val = built.node.get? j.val := by
    decide +kernel
  refine ⟨fun _ i hi => hk ⟨i, by omega⟩, fun h => absurd h (by decide +kernel), fun j hj => by omega⟩

theorem witness_ResetPinPerformsResetAll : ({ coded with rstN := false, inputs := [.clk] } : State).rstN = false ∧
    ({ coded with rstN := false, inputs := [.clk] } : State).nextInput = .clk ∧
    ({ coded with rstN := false } : State).nextInput = .core := by decide +kernel

theorem witness_ResetPulseHasALength :
    (let s : State := { coded with rstN := false, inputs := [.rstHigh] }
     s.rstN = false ∧ s.nextInput = .rstHigh ∧ s.rstCycles < s.params.rstMin) ∧
    (let s : State := { coded with rstN := false, inputs := [.bus (.read 0#32)] }
     s.rstN = false ∧ s.nextInput = .bus (.read 0#32)) ∧
    (let s : State := { coded with rstN := false, rstCycles := 1, inputs := [.rstHigh] }
     s.rstN = false ∧ s.nextInput = .rstHigh ∧ s.params.rstMin ≤ s.rstCycles) := by decide +kernel

theorem witness_ResetMeetsTheInvariants : Memory.wf coded.out = true ∧ Memory.below coded.outDepth coded.out = true := by
  decide +kernel

theorem witness_FreqConsistentKept : ∃ t, FreqConsistent (counted.latch 0x11000061#32) ∧
    step (counted.latch 0x11000061#32) = .next t := by
  obtain ⟨t, ht⟩ := step_latched 0x11000061#32 (s := counted) (by decide +kernel) (by decide +kernel)
  exact ⟨t, counted_freqConsistent, ht⟩

theorem witness_PhaseOrderedKept : ∃ t, PhaseOrdered (decoding.latch 0x52000000#32) ∧
    step (decoding.latch 0x52000000#32) = .next t := by
  obtain ⟨t, ht⟩ := step_latched 0x52000000#32 (s := decoding) (by decide +kernel) (by decide +kernel)
  exact ⟨t, decoding_inv.phase, ht⟩

theorem witness_OutputAndPackerKept : ∃ t, step (encoding.latch 0x41000061#32) = .next t ∧
    OutputBounded (encoding.latch 0x41000061#32) ∧ EncoderInStep (encoding.latch 0x41000061#32) := by
  obtain ⟨t, ht⟩ := step_latched 0x41000061#32 (s := encoding) (by decide +kernel) (by decide +kernel)
  exact ⟨t, ht, coded_output, encoding_inStep.1⟩

theorem witness_ErrorsAndLatchKept : ∃ t, ErrorsConsistent (decoding.latch 0x52000000#32) ∧
    LatchHoldsNoReset (decoding.latch 0x52000000#32) ∧ step (decoding.latch 0x52000000#32) = .next t := by
  obtain ⟨t, ht⟩ := step_latched 0x52000000#32 (s := decoding) (by decide +kernel) (by decide +kernel)
  exact ⟨t, decoding_inv.errors, fun _ => by decide, ht⟩

theorem witness_TreeAndCodesKept : ∃ t, PhaseOrdered (decoding.latch 0x52000000#32) ∧
    TreeIsBuilt (decoding.latch 0x52000000#32) ∧ CodesAreGenerated (decoding.latch 0x52000000#32) ∧
    step (decoding.latch 0x52000000#32) = .next t := by
  obtain ⟨t, ht⟩ := step_latched 0x52000000#32 (s := decoding) (by decide +kernel) (by decide +kernel)
  exact ⟨t, decoding_inv.phase, coded_treeIsBuilt, coded_codesAreGenerated, ht⟩

theorem witness_EveryStepKeepsTheInvariants : Inv decoding ∧ step decoding = .next decoding.takeInput :=
  ⟨decoding_inv, step_idle (by decide +kernel) (by decide +kernel) (by decide +kernel)⟩

end Sys2Proof.Tests
end

/-! # Scope (spec/00_scope.md): commands are all-or-nothing (R13), and what each command leaves unchanged -/

namespace Sys2Proof.Machine

/-! ## The error path (R13, R262) -/

/-- A latched command that set ERR took an error: a body that succeeds leaves ERR as it was (R262). -/
theorem exec_raises_of_err {i : Instr} {s t : State} (hi : i ≠ .reset) (hs : s.err = false) (h : exec i s = .next t)
    (ht : t.err = true) : ∃ e, t = s.raise e := by
  rcases exec_cases h with ⟨hr, -⟩ | ⟨-, -, s1, hb, rfl⟩ | ⟨-, e, -, rfl⟩
  · exact absurd hr hi
  · obtain ⟨-, -, -, herr, -⟩ := commandBody_sameOutside hb
    rw [State.complete_err, herr, hs] at ht
    cases ht
  · exact ⟨e, rfl⟩

/-- Settles O9: the only way a command sets ERR is `State.raise`, which writes nothing of the command's. -/
theorem commandsAreAllOrNothing : Obligations.CommandsAreAllOrNothing :=
  fun _ _ _ hi hs h ht => exec_raises_of_err hi hs h ht

/-! ## The frames (R150-R236) -/

/-- s with the fields that the body of command i may write taken from t: the "Flags written" and results of R150-R236. -/
def commandFrame (i : Instr) (s t : State) : State :=
  match i with
  | .nop | .reset => s
  | .freqClr | .freqAdd _ | .freqSet _ => { s with freq := t.freq, nsym := t.nsym, total := t.total }
  | .build => { s with node := t.node, root := t.root, nnodes := t.nnodes, treeValid := t.treeValid }
  | .gen => { s with code := t.code, maxlen := t.maxlen, codeValid := t.codeValid }
  | .encStart =>
    { s with mode := t.mode, outcnt := t.outcnt, encBitcnt := t.encBitcnt, padbits := t.padbits, acc := t.acc, accN := t.accN }
  | .encSym _ => { s with out := t.out, outcnt := t.outcnt, encBitcnt := t.encBitcnt, acc := t.acc, accN := t.accN }
  | .encFlush =>
    { s with mode := t.mode, out := t.out, outcnt := t.outcnt, padbits := t.padbits, acc := t.acc, accN := t.accN }
  | .decStart =>
    { s with mode := t.mode, decPartial := t.decPartial, outcnt := t.outcnt, decBitcnt := t.decBitcnt, cursor := t.cursor }
  | .decByte _ _ => { s with out := t.out, outcnt := t.outcnt, cursor := t.cursor, decBitcnt := t.decBitcnt }
  | .decEnd => { s with mode := t.mode, decPartial := t.decPartial }

/-- Completion writes no field of any command's own (R262). -/
@[simp] theorem commandFrame_complete (i : Instr) (s t : State) : commandFrame i s t.complete = commandFrame i s t := by
  cases i <;> rfl

/-- An error taken writes no field of any command's own (R13, R262). -/
@[simp] theorem commandFrame_raise (i : Instr) (s : State) (e : ErrCode) : commandFrame i s (s.raise e) = s := by
  cases i <;> rfl

/-- A body that succeeds writes its command's own fields only. -/
theorem innerBody_eq_commandFrame {i : Instr} {s t : State} (h : innerBody i s = .ok t) : t = commandFrame i s t := by
  cases i with
  | nop => exact (Except.ok.inj h).symm
  | reset => exact (Except.ok.inj h).symm
  | freqClr => rw [freqClrBody_ok h]; rfl
  | freqAdd sym => rw [(freqAddBody_ok h).2]; rfl
  | freqSet sym => rw [(freqSetBody_ok h).2]; rfl
  | build => rw [buildBody_ok h]; rfl
  | gen => obtain ⟨c, m, -, rfl⟩ := genBody_ok h; rfl
  | encStart => rw [encStartBody_ok h]; rfl
  | encSym sym =>
    obtain ⟨-, -, rfl⟩ := encSymBody_ok h
    rw [State.pushBits_eq]; rfl
  | encFlush => rcases encFlushBody_ok h with ⟨-, rfl⟩ | ⟨-, -, rfl⟩ <;> rfl
  | decStart => rw [decStartBody_ok h]; rfl
  | decByte byte nb =>
    obtain ⟨-, cur, es, -, -, rfl⟩ := decByteBody_ok h
    rw [State.emitAll_eq]; rfl
  | decEnd => rw [decEndBody_ok h]; rfl

/-- A latched command writes its own fields, the error registers, BUSY and DONE, and nothing else (R13, R262). -/
theorem exec_frame {i : Instr} {s t : State} (hi : i ≠ .reset) (h : exec i s = .next t) :
    t = { commandFrame i s t with
      err := t.err, errcode := t.errcode, errcmd := t.errcmd, busy := false, done := true } := by
  rcases exec_cases h with ⟨hr, -⟩ | ⟨-, -, s1, hb, rfl⟩ | ⟨-, e, -, rfl⟩
  · exact absurd hr hi
  · rw [commandFrame_complete, ← innerBody_eq_commandFrame (require_ok hb).2]; rfl
  · rw [commandFrame_raise]; rfl

/-- NOP has no body and no precondition (R150). -/
theorem exec_nop (s : State) : exec .nop s = .next s.complete := rfl

/-- After BUILD there is a tree: the one it made, or the one it refused to replace (R170, R265). -/
theorem exec_build_treeValid {s t : State} (h : exec .build s = .next t) : t.treeValid = true := by
  cases hv : s.treeValid with
  | true =>
    rw [exec_badSeq (by decide) (by simp [precondition, hv])] at h
    cases h
    exact hv
  | false =>
    rw [exec_success (by decide) (by simp [precondition, hv]) rfl] at h
    cases h
    rfl

/-- One count written leaves the count of every other symbol. -/
theorem freqAt_setFreq_ne {s : State} {sym b : Byte} (n : Word) (hb : b ≠ sym) : (s.setFreq sym n).freqAt b = s.freqAt b :=
  (State.freqAt_setFreq s sym b n).trans (if_neg hb.symm)

/-- FREQ_ADD and FREQ_SET leave the count of every other symbol (R161, R162). -/
theorem exec_freqAt_ne {i : Instr} {s t : State} {sym b : Byte} (hi : i = .freqAdd sym ∨ i = .freqSet sym) (hb : b ≠ sym)
    (h : exec i s = .next t) : t.freqAt b = s.freqAt b := by
  rcases exec_cases h with ⟨rfl, -⟩ | ⟨-, -, s1, hbody, rfl⟩ | ⟨-, e, -, rfl⟩
  · simp at hi
  · have hok := (require_ok hbody).2
    rcases hi with rfl | rfl
    · obtain ⟨-, rfl⟩ := freqAddBody_ok hok
      exact freqAt_setFreq_ne _ hb
    · obtain ⟨-, rfl⟩ := freqSetBody_ok hok
      exact freqAt_setFreq_ne _ hb
  · rfl

/-- Settles O15: `exec_frame` for each command, with NOP raising no error, BUILD leaving a tree, and the counts of other symbols
kept. -/
theorem eachCommandHasItsFrame : Obligations.EachCommandHasItsFrame := by
  intro s t sym byte nb
  refine ⟨fun h => ?nop, fun h => ⟨?freq, ?otherCounts⟩, fun h => ?build, exec_frame (by decide), exec_frame (by decide),
    exec_frame (by simp), exec_frame (by decide), exec_frame (by decide), exec_frame (by simp), exec_frame (by decide)⟩
  case nop =>
    rw [exec_nop] at h
    cases h
    rfl
  case freq =>
    rcases h with h | h | h
    · exact exec_frame (by decide) h
    · exact exec_frame (by simp) h
    · exact exec_frame (by simp) h
  case otherCounts =>
    rcases h with h | h | h
    · exact .inl h
    · exact .inr fun b hb => exec_freqAt_ne (.inl rfl) hb h
    · exact .inr fun b hb => exec_freqAt_ne (.inr rfl) hb h
  case build => simpa only [commandFrame, exec_build_treeValid h] using exec_frame (by decide) h

end Sys2Proof.Machine

/-! # Reads (spec/20_memory.md R97): what no read shows, and the registers by offset -/

namespace Sys2Proof.Machine

/-! ## Unspecified contents (R52, R55, R56) -/

/-- The NODE window reads entries below NNODES of a valid tree and no other (R97 (b)). -/
theorem readNode_congr {s t : State} (hv : t.treeValid = s.treeValid) (hn : t.nnodes = s.nnodes)
    (h : s.treeValid = true → ∀ i, i < s.nnodes.toNat → t.node.get? i = s.node.get? i) (i k : Nat) (free : Word) :
    t.readNode i k free = s.readNode i k free := by
  unfold State.readNode
  rw [hv, hn]
  split_ifs with hfree
  · rfl
  · obtain ⟨htree, hi⟩ := not_or.mp hfree
    have hle : (BitVec.ofNat 9 i).toNat ≤ i := by
      rw [BitVec.toNat_ofNat]
      exact Nat.mod_le _ _
    have hentry : t.nodeAt (BitVec.ofNat 9 i) = s.nodeAt (BitVec.ofNat 9 i) := by
      unfold State.nodeAt Machine.nodeAt
      rw [h (Bool.eq_true_of_not_eq_false htree) _ (by omega)]
    rw [hentry]

/-- The CODE window reads the table while CODE_VALID = 1 only (R97 (c)). -/
theorem readCode_congr {s t : State} (hv : t.codeValid = s.codeValid) (h : s.codeValid = true → t.code = s.code)
    (sym k : Nat) (free : Word) : t.readCode sym k free = s.readCode sym k free := by
  unfold State.readCode State.codeAt
  rw [hv]
  split_ifs with hcode
  · rfl
  · rw [h (Bool.eq_true_of_not_eq_false hcode)]

/-- The lanes of an OUT word read bytes below OUTCNT only (R97 (d)). -/
theorem outLane_congr {s t : State} (hn : t.outcnt = s.outcnt) (h : ∀ j, j < s.outcnt.toNat → t.outByte j = s.outByte j)
    (j lane : Nat) (free : Word) : t.outLane j lane free = s.outLane j lane free := by
  unfold State.outLane
  rw [hn]
  split_ifs with hj
  · exact h j hj
  · rfl

/-- The OUT window reads bytes below OUTCNT only (R97 (d)). -/
theorem readOut_congr {s t : State} (hn : t.outcnt = s.outcnt) (h : ∀ j, j < s.outcnt.toNat → t.outByte j = s.outByte j)
    (k : Nat) (free : Word) : t.readOut k free = s.readOut k free := by
  unfold State.readOut
  simp only [outLane_congr hn h]

/-- Settles O51: a read of the NODE, CODE or OUT window is one of `readNode`, `readCode` and `readOut`, and a read of any other
region reads none of the three tables. -/
theorem unspecifiedContentsAreNotRead : Obligations.UnspecifiedContentsAreNotRead := by
  intro s node code out hnode hcode hout off free
  unfold State.readOffset
  have hregion : ({ s with node := node, code := code, out := out } : State).regionOf off = s.regionOf off := rfl
  rw [hregion]
  cases s.regionOf off with
  | control | result | freq | reserved => rfl
  | node => exact congrArg (ite _ free) (readNode_congr (by rfl) (by rfl) hnode _ _ _)
  | code => exact congrArg (ite _ free) (readCode_congr (by rfl) hcode _ _ _)
  | out => exact congrArg (ite _ free) (readOut_congr (by rfl) hout _ _)

/-! ## The registers (R33-R47) -/

/-- The control registers read exactly at any time (R97). -/
theorem memRead_control {s : State} {addr : Word} (h : alignAddr addr < 0x020) :
    s.memRead addr = s.readControl (alignAddr addr) := by
  unfold State.memRead State.readOffset
  rw [regionOf_control h]

/-- The result registers read exactly while no command is in flight (R97 (a)). -/
theorem memRead_result {s : State} (hb : s.busy = false) {addr : Word} (h1 : 0x020 ≤ alignAddr addr)
    (h2 : alignAddr addr < 0x048) : s.memRead addr = s.readResult (alignAddr addr) := by
  unfold State.memRead State.readOffset
  rw [regionOf_result h1 h2, hb]
  rfl

/-- CTRL as a number: IE_ERR weighs 2 and IE_DONE 1 (R40). -/
theorem ctrlWord_toNat (s : State) : s.ctrlWord.toNat = (if s.ieErr then 2 else 0) + (if s.ieDone then 1 else 0) := by
  unfold State.ctrlWord
  cases s.ieErr <;> cases s.ieDone <;> rfl

/-- PARAMS as a number: CODE_STORE and SYM_BITS in place, and OUT_LOG2 below them (R41). -/
theorem paramsWord_toNat (s : State) : s.paramsWord.toNat = 0x00400800 + s.params.outLog2 := by
  have hlog : s.params.outLog2 < 2 ^ 8 := by
    have := s.params.outLog2Less2.isLt
    unfold Params.outLog2
    omega
  unfold State.paramsWord
  rw [BitVec.toNat_append, BitVec.toNat_ofNat, Nat.mod_eq_of_lt hlog, ← Nat.shiftLeft_add_eq_or_of_lt hlog]
  rfl

/-- Settles O46: each offset is in the control or the result region, whose register is read off by offset. -/
theorem readsReturnTheRegisters : Obligations.ReadsReturnTheRegisters := by
  intro s
  refine ⟨memRead_control (by decide), memRead_control (by decide), memRead_control (by decide), memRead_control (by decide),
    ?errcode, memRead_control (by decide), ?ctrl, ?params, fun hb => ?results⟩
  case errcode =>
    rw [memRead_control (by decide)]
    change s.errcodeWord = _
    unfold State.errcodeWord
    cases s.errcode with
    | none => rfl
    | some e => cases e <;> rfl
  case ctrl =>
    rw [memRead_control (by decide)]
    exact ctrlWord_toNat s
  case params =>
    rw [memRead_control (by decide)]
    exact paramsWord_toNat s
  case results =>
    and_intros <;> exact memRead_result hb (by decide) (by decide)

end Sys2Proof.Machine

/-! # The memory map (spec/20_memory.md): what a read and a write do, by address -/

namespace Sys2Proof.Machine

/-! ## Addresses and writes (R93-R95) -/

/-- The word an address reaches is named by its bits 31:2 (R93). -/
theorem alignAddr_eq_extractLsb' (a : Word) : alignAddr a = 4 * (a.extractLsb' 2 30).toNat := by
  have hlt := a.isLt
  rw [BitVec.extractLsb'_toNat, Nat.shiftRight_eq_div_pow, alignAddr]
  omega

/-- A write that reaches none of the four offsets is ignored (R94). -/
theorem memWrite_ignored {s : State} {addr : Word} (v : Word) (hcmd : alignAddr addr ≠ 0x004) (harg0 : alignAddr addr ≠ 0x008)
    (hstatus : alignAddr addr ≠ 0x00C) (hctrl : alignAddr addr ≠ 0x018) : s.memWrite addr v = s := by
  unfold State.memWrite
  split
  · exact absurd ‹_› hcmd
  · exact absurd ‹_› harg0
  · exact absurd ‹_› hstatus
  · exact absurd ‹_› hctrl
  · rfl

/-- STATUS bit 1 written 1 clears DONE, and written 0 keeps it (R37). -/
theorem writeStatus_eq (s : State) (v : Word) :
    s.writeStatus v = { s with done := if v.getLsbD 1 then false else s.done } := by
  unfold State.writeStatus
  cases v.getLsbD 1 <;> simp

/-- Settles O49: `memWrite` goes by the word-aligned offset. -/
theorem writesActAtFourOffsets : Obligations.WritesActAtFourOffsets := by
  intro s addr v
  refine ⟨fun harg0 => ?arg0, fun hstatus => ?status, fun hctrl => ?ctrl, memWrite_ignored v⟩
  case arg0 => unfold State.memWrite; rw [harg0]; rfl
  case status => unfold State.memWrite; rw [hstatus]; exact writeStatus_eq s v
  case ctrl => unfold State.memWrite; rw [hctrl]; rfl

/-- Settles O50: reads and writes see an address through `alignAddr` only, which looks at bits 31:2. -/
theorem readsHaveNoSideEffect : Obligations.ReadsHaveNoSideEffect := by
  intro s a b v
  refine ⟨rfl, fun hword => ?_⟩
  have haddr : alignAddr a = alignAddr b := by rw [alignAddr_eq_extractLsb', alignAddr_eq_extractLsb', hword]
  unfold State.memRead State.memWrite
  rw [haddr]
  exact ⟨rfl, rfl⟩

/-! ## A read by region (R92, R97) -/

section
variable {s : State} {off : Nat} (free : Word)

/-- The control registers read exactly at any time (R97). -/
theorem readOffset_control (h : off < 0x020) : s.readOffset off free = s.readControl off := by
  rw [State.readOffset, regionOf_control h]

/-- The result registers (R97 (a)). -/
theorem readOffset_result (h1 : 0x020 ≤ off) (h2 : off < 0x048) :
    s.readOffset off free = if s.busy then free else s.readResult off := by
  rw [State.readOffset, regionOf_result h1 h2]

/-- The FREQ window (R92, R97 (a)). -/
theorem readOffset_freq (h1 : 0x400 ≤ off) (h2 : off < 0x800) :
    s.readOffset off free = if s.busy then free else s.freqAt (BitVec.ofNat 8 ((off - 0x400) / 4)) := by
  rw [State.readOffset, regionOf_freq h1 h2]

/-- The NODE window (R92, R97 (a)). -/
theorem readOffset_node (h1 : 0x1000 ≤ off) (h2 : off < 0x2FF0) :
    s.readOffset off free = if s.busy then free else s.readNode ((off - 0x1000) / 16) (off % 16) free := by
  rw [State.readOffset, regionOf_node h1 h2]

/-- The CODE window (R92, R97 (a)). -/
theorem readOffset_code (h1 : 0x4000 ≤ off) (h2 : off < 0x5000) :
    s.readOffset off free = if s.busy then free else s.readCode ((off - 0x4000) / 16) (off % 16) free := by
  rw [State.readOffset, regionOf_code h1 h2]

/-- The OUT window (R92, R97 (a)). -/
theorem readOffset_out (h1 : 0x10000 ≤ off) (h2 : off < 0x10000 + s.outDepth) :
    s.readOffset off free = if s.busy then free else s.readOut ((off - 0x10000) / 4) free := by
  rw [State.readOffset, regionOf_out h1 h2]

/-- The reserved and unmapped ranges read 0 at any time (R92, R97). -/
theorem readOffset_reserved
    (h : (0x048 ≤ off ∧ off < 0x400) ∨ (0x800 ≤ off ∧ off < 0x1000) ∨ (0x2FF0 ≤ off ∧ off < 0x4000) ∨
      (0x5000 ≤ off ∧ off < 0x10000) ∨ 0x10000 + s.outDepth ≤ off) : s.readOffset off free = 0#32 := by
  rw [State.readOffset, regionOf_reserved h]

/-! ## The windows' entries: exact or unspecified (R97) -/

/-- A NODE entry below NNODES of a valid tree is shown (R97 (b)). -/
theorem readNode_exact {i : Nat} (hv : s.treeValid = true) (hi : i < s.nnodes.toNat) (k : Nat) :
    s.readNode i k free = nodeWord (s.nodeAt (BitVec.ofNat 9 i)) k :=
  if_neg (by simp [hv, hi])

/-- Any other NODE entry reads as the free value (R97 (b)). -/
theorem readNode_unspecified {i : Nat} (h : s.treeValid = false ∨ s.nnodes.toNat ≤ i) (k : Nat) :
    s.readNode i k free = free := if_pos h

/-- A CODE entry is shown while CODE_VALID = 1 (R97 (c)). -/
theorem readCode_exact (hv : s.codeValid = true) (sym k : Nat) :
    s.readCode sym k free = codeWord (s.codeAt (BitVec.ofNat 8 sym)) k :=
  if_neg (by simp [hv])

/-- A CODE entry reads as the free value while CODE_VALID = 0 (R97 (c), log entry 12). -/
theorem readCode_unspecified (hv : s.codeValid = false) (sym k : Nat) : s.readCode sym k free = free := if_pos hv

/-- A lane of the OUT window shows its byte below OUTCNT (R97 (d)). -/
theorem outLane_below {j : Nat} (h : j < s.outcnt.toNat) (lane : Nat) : s.outLane j lane free = s.outByte j := if_pos h

/-- A lane at or past OUTCNT is the free value's lane (R97 (d)). -/
theorem outLane_past {j : Nat} (h : s.outcnt.toNat ≤ j) (lane : Nat) :
    s.outLane j lane free = free.extractLsb' (8 * lane) 8 := if_neg (by omega)

/-! ## The windows by entry (R92) -/

/-- With no command in flight, the words of a NODE entry that is valid (R92). -/
theorem readOffset_nodeEntry (hb : s.busy = false) (hv : s.treeValid = true) {i k : Nat} (hi : i < s.nnodes.toNat)
    (hmax : i < 511) (hk : k < 16) :
    s.readOffset (0x1000 + 16 * i + k) free = nodeWord (s.nodeAt (BitVec.ofNat 9 i)) k := by
  have hentry : (0x1000 + 16 * i + k - 0x1000) / 16 = i := by omega
  have hword : (0x1000 + 16 * i + k) % 16 = k := by omega
  rw [readOffset_node free (by omega) (by omega), hb, hentry, hword]
  exact readNode_exact free hv hi k

/-- With no command in flight, the words of a CODE entry that is valid (R92). -/
theorem readOffset_codeEntry (hb : s.busy = false) (hv : s.codeValid = true) (sym : Byte) {k : Nat} (hk : k < 16) :
    s.readOffset (0x4000 + 16 * sym.toNat + k) free = codeWord (s.codeAt sym) k := by
  have hsym := sym.isLt
  have hentry : (0x4000 + 16 * sym.toNat + k - 0x4000) / 16 = sym.toNat := by omega
  have hword : (0x4000 + 16 * sym.toNat + k) % 16 = k := by omega
  rw [readOffset_code free (by omega) (by omega), hb, hentry, hword]
  exact (readCode_exact free hv _ k).trans (by rw [BitVec.ofNat_toNat, BitVec.setWidth_eq])

/-- With no command in flight, the lanes of an OUT word (R92, R98). -/
theorem readOffset_outLane (hb : s.busy = false) (hal : off % 4 = 0) (h1 : 0x10000 ≤ off) (h2 : off < 0x10000 + s.outDepth)
    {lane : Nat} (hl : lane < 4) :
    (s.readOffset off free).extractLsb' (8 * lane) 8 = s.outLane (off - 0x10000 + lane) lane free := by
  have hindex : 4 * ((off - 0x10000) / 4) = off - 0x10000 := by omega
  rw [readOffset_out free h1 h2, hb]
  exact (readOut_lane s _ lane free hl).trans (by rw [hindex])

end

/-- A flag in bit 31 over a byte in bits 7:0: the shape of the words that hold LEAF and VALID (R92). -/
theorem flagOverByte_toNat (b : Bool) (x : Byte) :
    (BitVec.ofBool b ++ 0#23 ++ x : BitVec 32).toNat = (if b then 0x80000000 else 0) + x.toNat := by
  rw [BitVec.toNat_append, ← Nat.shiftLeft_add_eq_or_of_lt x.isLt]
  cases b <;> rfl

/-- Settles O47: each window by its entries, each entry by the word. -/
theorem windowsShowTheTables : Obligations.WindowsShowTheTables := by
  intro s free
  refine ⟨fun a => ?addr, fun hb sym => ?freq, fun hb hv i hi hmax n hn => ?node, fun hb hv sym => ?code,
    fun hb k lane hl hcnt hdepth => ?out, fun off _ h => readOffset_reserved free h⟩
  case addr =>
    have halign : alignAddr a = a.toNat - a.toNat % 4 := by unfold alignAddr; omega
    rw [State.memRead, halign]
  case freq =>
    have hsym := sym.isLt
    have hentry : (0x400 + 4 * sym.toNat - 0x400) / 4 = sym.toNat := by omega
    rw [readOffset_freq free (by omega) (by omega), hb, hentry, BitVec.ofNat_toNat, BitVec.setWidth_eq]
    rfl
  case node =>
    subst hn
    have hentry (k : Nat) (hk : k < 16) :
        s.readOffset (0x1000 + 16 * i + k) free = nodeWord (s.nodeAt (BitVec.ofNat 9 i)) k :=
      readOffset_nodeEntry free hb hv hi hmax hk
    refine ⟨hentry 0 (by decide), ?_, hentry 8 (by decide), hentry 12 (by decide)⟩
    exact (congrArg BitVec.toNat (hentry 4 (by decide))).trans (flagOverByte_toNat _ _)
  case code =>
    have hentry (k : Nat) (hk : k < 16) : s.readOffset (0x4000 + 16 * sym.toNat + k) free = codeWord (s.codeAt sym) k :=
      readOffset_codeEntry free hb hv sym hk
    refine ⟨?_, hentry 4 (by decide), hentry 8 (by decide), hentry 12 (by decide)⟩
    exact (congrArg BitVec.toNat (hentry 0 (by decide))).trans (flagOverByte_toNat _ _)
  case out =>
    have hindex : 0x10000 + 4 * k - 0x10000 + lane = 4 * k + lane := by omega
    rw [readOffset_outLane free hb (by omega) (by omega) (by omega) hl, hindex]
    exact outLane_below free hcnt lane

/-! ## What depends on the free value (R97) -/

/-- The result registers and the windows read as the free value while a command is in flight (R97 (a)). -/
theorem readOffset_inFlight {s : State} {off : Nat} (free : Word) (hb : s.busy = true)
    (h : (0x020 ≤ off ∧ off < 0x048) ∨ (0x400 ≤ off ∧ off < 0x800) ∨ (0x1000 ≤ off ∧ off < 0x2FF0) ∨
      (0x4000 ≤ off ∧ off < 0x5000) ∨ (0x10000 ≤ off ∧ off < 0x10000 + s.outDepth)) : s.readOffset off free = free := by
  rcases h with ⟨h1, h2⟩ | ⟨h1, h2⟩ | ⟨h1, h2⟩ | ⟨h1, h2⟩ | ⟨h1, h2⟩
  · rw [readOffset_result free h1 h2, if_pos hb]
  · rw [readOffset_freq free h1 h2, if_pos hb]
  · rw [readOffset_node free h1 h2, if_pos hb]
  · rw [readOffset_code free h1 h2, if_pos hb]
  · rw [readOffset_out free h1 h2, if_pos hb]

/-- With no command in flight, the registers and the FREQ window do not depend on the free value (R97). -/
theorem readOffset_exact_of_lt {s : State} {off : Nat} (f g : Word) (hb : s.busy = false) (h : off < 0x800) :
    s.readOffset off f = s.readOffset off g := by
  have hrange : off < 0x020 ∨ (0x020 ≤ off ∧ off < 0x048) ∨ (0x048 ≤ off ∧ off < 0x400) ∨ (0x400 ≤ off ∧ off < 0x800) := by
    omega
  rcases hrange with h2 | ⟨h1, h2⟩ | hres | ⟨h1, h2⟩
  · rw [readOffset_control f h2, readOffset_control g h2]
  · rw [readOffset_result f h1 h2, readOffset_result g h1 h2, hb]; rfl
  · rw [readOffset_reserved f (.inl hres), readOffset_reserved g (.inl hres)]
  · rw [readOffset_freq f h1 h2, readOffset_freq g h1 h2, hb]; rfl

/-- Settles O48: region by region, the read is the free value, the free value's lane, or a value in which it does not occur. -/
theorem unspecifiedReadsAreFreeDraws : Obligations.UnspecifiedReadsAreFreeDraws := by
  intro s off f g hal
  refine ⟨readOffset_inFlight f, fun h1 h2 h => ?nodeFree, fun h1 h2 hv => ?codeFree,
    fun hb h1 h2 lane hl => ⟨fun h => ?byte, fun h => ?lane⟩, readOffset_exact_of_lt f g,
    fun hb hv h1 h2 hi => ?node, fun hb hv h1 h2 => ?code, fun h => ?always⟩
  case nodeFree => rw [readOffset_node f h1 h2, readNode_unspecified f h, ite_self]
  case codeFree => rw [readOffset_code f h1 h2, readCode_unspecified f hv, ite_self]
  case byte => rw [readOffset_outLane f hb hal h1 h2 hl, outLane_below f h]
  case lane => rw [readOffset_outLane f hb hal h1 h2 hl, outLane_past f h]
  case node =>
    rw [readOffset_node f h1 h2, readOffset_node g h1 h2, readNode_exact f hv hi, readNode_exact g hv hi, hb]
    rfl
  case code =>
    rw [readOffset_code f h1 h2, readOffset_code g h1 h2, readCode_exact f hv, readCode_exact g hv, hb]
    rfl
  case always =>
    rcases h with hctl | hres
    · rw [readOffset_control f hctl, readOffset_control g hctl]
    · rw [readOffset_reserved f hres, readOffset_reserved g hres]

end Sys2Proof.Machine

/-! # The tables between steps (R71, R107, R163): what a step can do to them, and what stays true of them -/

namespace Sys2Proof.Machine

/-! ## What a step can do to the tables -/

/-- The counts and the tree (R50, R51). -/
structure TreeTables where
  freq      : FreqTable
  nsym      : BitVec 9
  total     : Word
  node      : NodeTable
  root      : NodeIdx
  nnodes    : BitVec 10
  treeValid : Bool

/-- The codes (R54). -/
structure CodeTables where
  code      : CodeTable
  maxlen    : BitVec 8
  codeValid : Bool

/-- The counts and the tree of a state. -/
def State.treeTables (s : State) : TreeTables := ⟨s.freq, s.nsym, s.total, s.node, s.root, s.nnodes, s.treeValid⟩

/-- The codes of a state. -/
def State.codeTables (s : State) : CodeTables := ⟨s.code, s.maxlen, s.codeValid⟩

/-- The counts and the tree agree field by field. -/
theorem treeTables_eq_iff {s t : State} : t.treeTables = s.treeTables ↔
    t.freq = s.freq ∧ t.nsym = s.nsym ∧ t.total = s.total ∧ t.node = s.node ∧ t.root = s.root ∧ t.nnodes = s.nnodes ∧
    t.treeValid = s.treeValid := Iff.of_eq (TreeTables.mk.injEq ..)

/-- The codes agree field by field. -/
theorem codeTables_eq_iff {s t : State} : t.codeTables = s.codeTables ↔
    t.code = s.code ∧ t.maxlen = s.maxlen ∧ t.codeValid = s.codeValid := Iff.of_eq (CodeTables.mk.injEq ..)

/-- What a step from s to t can do to the tables. -/
inductive TablesChange (s t : State) : Prop
  /-- It leaves them as they are. -/
  | kept (tree : t.treeTables = s.treeTables) (codes : t.codeTables = s.codeTables)
  /-- ResetAll (R301). -/
  | reset (tree : t.treeValid = false) (codes : t.codeValid = false)
  /-- FREQ_CLR, FREQ_ADD or FREQ_SET succeeds (R160-R162). -/
  | counted (before : s.treeValid = false) (after : t.treeValid = false) (codes : t.codeTables = s.codeTables)
  /-- BUILD succeeds (R170). -/
  | built (before : s.treeValid = false) (codes : t.codeTables = s.codeTables) (freq : t.freq = s.freq)
      (root : t.root = rootOf (buildTree s.freq).2) (nnodes : t.nnodes = BitVec.ofNat 10 (buildTree s.freq).1.length)
      (node : t.node = writeNodes 0 (buildTree s.freq).1 s.node)
  /-- GEN succeeds (R190). -/
  | generated (before : s.codeValid = false) (tree : t.treeTables = s.treeTables) (c : CodeTable) (m : Nat)
      (gen : genCodes s = .ok (c, m)) (code : t.code = c) (maxlen : t.maxlen = BitVec.ofNat 8 m)

/-- Taking the input off the list touches no table. -/
theorem TablesChange.of_takeInput {s t : State} (h : TablesChange s.takeInput t) : TablesChange s t := by
  cases h with
  | kept tree codes => exact .kept tree codes
  | reset tree codes => exact .reset tree codes
  | counted before after codes => exact .counted before after codes
  | built before codes freq root nnodes node => exact .built before codes freq root nnodes node
  | generated before tree c m gen code maxlen => exact .generated before tree c m gen code maxlen

/-- A command body that succeeds (R160-R236): the commands of the frequency store need no tree, BUILD makes one, GEN makes the
codes, and the rest keep the tables. Completion touches none of them. -/
theorem innerBody_tables {i : Instr} {s t : State} (hp : precondition i s = true) (h : innerBody i s = .ok t) :
    TablesChange s t.complete := by
  have hframe := innerBody_eq_commandFrame h
  cases i with
  | nop | reset | encStart | encSym | encFlush | decStart | decByte | decEnd => rw [hframe]; exact .kept rfl rfl
  | freqClr | freqAdd | freqSet =>
    have hv : s.treeValid = false := by simpa [precondition] using hp
    rw [hframe]
    exact .counted hv hv rfl
  | build =>
    have hv : s.treeValid = false := by simpa [precondition] using hp
    rw [buildBody_ok h]
    exact .built hv rfl rfl rfl rfl rfl
  | gen =>
    obtain ⟨-, hv⟩ : s.treeValid = true ∧ s.codeValid = false := by simpa [precondition] using hp
    obtain ⟨c, m, hgen, rfl⟩ := genBody_ok h
    exact .generated hv rfl c m hgen rfl rfl

/-- A command, whether it succeeds or takes an error (R262). -/
theorem exec_tables {i : Instr} {s t : State} (h : exec i s = .next t) : TablesChange s t := by
  rcases exec_cases h with ⟨-, rfl⟩ | ⟨-, hp, s1, hbody, rfl⟩ | ⟨-, e, -, rfl⟩
  · exact .reset rfl rfl
  · exact innerBody_tables hp (require_ok hbody).2
  · exact .kept rfl rfl

/-- A bus access: a write of RESET to CMD resets the tables, and no other access touches them (R94, R95, R261). -/
theorem busAccess_tables (s : State) (op : BusOp) : TablesChange s (s.busAccess op) := by
  cases op with
  | read addr => exact .kept rfl rfl
  | write addr v =>
    unfold State.busAccess
    dsimp only
    rcases memWrite_cases s addr v with h | h | h | h | h <;> rw [h]
    case inl =>
      rcases accept_cases s v with ⟨-, h⟩ | ⟨-, -, h⟩ | ⟨-, -, -, h⟩ | ⟨-, -, -, h⟩ <;> rw [h]
      · exact .reset rfl rfl
      all_goals exact .kept rfl rfl
    all_goals exact .kept rfl rfl

/-- rst_n going low touches no table (R300). -/
theorem driveReset_tables (s : State) : TablesChange s s.driveReset := by
  unfold State.driveReset
  split <;> exact .kept rfl rfl

/-- rst_n going high touches no table (R302). -/
theorem releaseReset_tables {s t : State} (h : releaseReset s = .next t) : TablesChange s t := by
  unfold releaseReset at h
  split at h
  · cases h; exact .kept rfl rfl
  · split at h <;> cases h
    exact .kept rfl rfl

/-- What any step does to the tables. -/
theorem step_tables {s t : State} (h : step s = .next t) : TablesChange s t := by
  obtain ⟨u, rfl, hcases⟩ := step_cases h
  apply TablesChange.of_takeInput
  rcases hcases with ⟨-, op, -, rfl⟩ | ⟨-, -, -, hcore⟩ | ⟨-, -, -, rfl⟩ | ⟨-, -, rfl⟩ | ⟨-, -, rfl⟩ | ⟨-, rfl⟩ | ⟨-, hhigh⟩
  · exact busAccess_tables _ op
  · rcases coreStep_cases hcore with ⟨i, -, hexec⟩ | ⟨e, -, rfl⟩
    · exact exec_tables hexec
    · exact .kept rfl rfl
  · exact .kept rfl rfl
  · exact .kept rfl rfl
  · exact .reset rfl rfl
  · exact driveReset_tables _
  · exact releaseReset_tables hhigh

/-- Settles O23: with a tree before and after, a step keeps the tables or is a GEN, which finds no codes. -/
theorem tablesAreFrozenOnceBuilt : Obligations.TablesAreFrozenOnceBuilt := by
  intro s t hs h ht
  cases step_tables h with
  | kept tree codes =>
    obtain ⟨hfreq, hnsym, htotal, hnode, hroot, hnnodes, -⟩ := treeTables_eq_iff.mp tree
    obtain ⟨hcode, hmaxlen, hvalid⟩ := codeTables_eq_iff.mp codes
    exact ⟨hfreq, hnsym, htotal, hnode, hroot, hnnodes, fun hv => ⟨hvalid.trans hv, hcode, hmaxlen⟩⟩
  | reset tree codes => simp [tree] at ht
  | counted before => simp [before] at hs
  | built before => simp [before] at hs
  | generated before tree =>
    obtain ⟨hfreq, hnsym, htotal, hnode, hroot, hnnodes, -⟩ := treeTables_eq_iff.mp tree
    exact ⟨hfreq, hnsym, htotal, hnode, hroot, hnnodes, fun hv => by simp [before] at hv⟩

/-! ## The size of a tree (R170) -/

/-- `popMin` takes one entry out. -/
theorem popMin_length {q rest : List QEntry} {e : QEntry} (h : popMin q = some (e, rest)) : q.length = rest.length + 1 := by
  induction q generalizing e rest with
  | nil => cases h
  | cons a q ih =>
    unfold popMin at h
    split at h
    · cases h; rfl
    · next m rest' hm =>
      have hlen := ih hm
      split at h <;> cases h <;> simp [hlen]

/-- A merge takes two entries out of the collection and puts one entry and one node in, so the nodes and the entries together
stay as many; and it leaves the collection an entry (R172). -/
theorem mergeLoop_length (fuel : Nat) (nodes : List Node) (q : List QEntry) :
    (mergeLoop fuel nodes q).1.length + (mergeLoop fuel nodes q).2.length = nodes.length + q.length ∧
    (q.length ≠ 0 → (mergeLoop fuel nodes q).2.length ≠ 0) := by
  induction fuel generalizing nodes q with
  | zero => exact ⟨rfl, id⟩
  | succ fuel ih =>
    unfold mergeLoop
    split
    · exact ⟨rfl, id⟩
    · next a q1 ha =>
      split
      · exact ⟨rfl, id⟩
      · next b q2 hb =>
        obtain ⟨hsum, hleft⟩ := ih (nodes ++ [innerNode a b]) (⟨a.weight + b.weight, nodes.length⟩ :: q2)
        have ha := popMin_length ha
        have hb := popMin_length hb
        refine ⟨hsum.trans ?_, fun _ => hleft (by simp)⟩
        simp only [List.length_append, List.length_cons, List.length_nil]
        omega

/-- There are no more leaves than counts (R171). -/
theorem leavesFrom_length_le (k : Nat) (cs : List Word) : (leavesFrom k cs).length ≤ cs.length := by
  induction cs generalizing k with
  | nil => exact Nat.le_refl 0
  | cons c cs ih =>
    have := ih (k + 1)
    unfold leavesFrom
    split <;> simp only [List.length_cons] <;> omega

/-- The collection starts with one entry for each node. -/
theorem queueFrom_length (k : Nat) (ns : List Node) : (queueFrom k ns).length = ns.length := by
  induction ns generalizing k with
  | nil => rfl
  | cons n ns ih => simp [queueFrom, ih]

/-- A tree of at most 256 leaves fits the node table: n leaves make at most 2n - 1 nodes (R8, R170). -/
theorem buildTree_length_le (f : FreqTable) : (buildTree f).1.length ≤ 511 := by
  have hleaves : (leaves f).length ≤ 256 := (leavesFrom_length_le 0 f.toList).trans f.length_toList.le
  obtain ⟨hsum, hleft⟩ := mergeLoop_length (leaves f).length (leaves f) (queueFrom 0 (leaves f))
  rw [queueFrom_length] at hsum hleft
  unfold buildTree
  by_cases hn : (leaves f).length = 0
  · omega
  · have := hleft hn
    omega

/-! ## The node table after BUILD (R170) -/

/-- Nodes written from index k on leave the entries below k. -/
theorem writeNodes_get?_of_lt {i k : Nat} (h : i < k) (ns : List Node) (t : NodeTable) :
    (writeNodes k ns t).get? i = t.get? i := by
  induction ns generalizing k t with
  | nil => rfl
  | cons n ns ih =>
    rw [writeNodes, ih (by omega), Table.get?_set, if_neg (by omega)]

/-- Nodes written from index k on stand there in their order. -/
theorem writeNodes_get? {j k : Nat} {n : Node} {ns : List Node} (h : ns[j]? = some n) (hfit : k + j < Config.nodeMax)
    (t : NodeTable) : (writeNodes k ns t).get? (k + j) = some n := by
  induction ns generalizing j k t with
  | nil => simp at h
  | cons a ns ih =>
    cases j with
    | zero =>
      have ha : a = n := by simpa using h
      rw [writeNodes, writeNodes_get?_of_lt (by omega), Table.get?_set, if_pos ⟨rfl, hfit⟩, ha]
    | succ j =>
      have hj : k + (j + 1) = k + 1 + j := by omega
      rw [writeNodes, hj]
      exact ih (by simpa using h) (by omega) _

/-! ## The codes (R190-R194) -/

/-- A walk that succeeds has met no leaf deeper than CODE_STORE (R190, R194). -/
theorem walk_maxlen_le {t : NodeTable} {fuel : Nat} {i : NodeIdx} {len v m m' : Nat} {c c' : CodeTable}
    (h : walk t fuel i len v (c, m) = .ok (c', m')) (hm : m ≤ Config.codeStore) : m' ≤ Config.codeStore := by
  induction fuel generalizing i len v c m c' m' with
  | zero => cases h
  | succ fuel ih =>
    unfold walk at h
    split at h
    · split at h
      · cases h
      · next hlen =>
        cases h
        exact max_le hm (by omega)
    · split at h
      · cases h
      · next cm hleft => exact ih h (ih hleft hm)

/-- No code GEN makes is longer than CODE_STORE (R194). -/
theorem genCodes_maxlen_le {s : State} {c : CodeTable} {m : Nat} (h : genCodes s = .ok (c, m)) : m ≤ Config.codeStore := by
  unfold genCodes at h
  split at h
  · cases h; decide
  · split at h
    · cases h; decide
    · exact walk_maxlen_le h (Nat.zero_le _)

/-- The codes are a function of the tree (R107, R190). -/
theorem genCodes_congr {s t : State} (hroot : t.root = s.root) (hnode : t.node = s.node) : genCodes t = genCodes s := by
  unfold genCodes State.nodeAt
  rw [hroot, hnode]

/-! ## The tree stays BUILD's and the codes GEN's -/

/-- Without a tree there is nothing to say of it. -/
theorem treeIsBuilt_of_not_treeValid {s : State} (h : s.treeValid = false) : TreeIsBuilt s := fun hv => by simp [h] at hv

/-- Without codes there is nothing to say of them. -/
theorem codesAreGenerated_of_not_codeValid {s : State} (h : s.codeValid = false) : CodesAreGenerated s :=
  fun hv => by simp [h] at hv

/-- The tree stays BUILD's as long as the counts and the tree stay (R163). -/
theorem TreeIsBuilt.congr {s t : State} (h : TreeIsBuilt s) (tree : t.treeTables = s.treeTables) : TreeIsBuilt t := by
  obtain ⟨hfreq, -, -, hnode, hroot, hnnodes, hvalid⟩ := treeTables_eq_iff.mp tree
  unfold TreeIsBuilt
  rw [hfreq, hnode, hroot, hnnodes, hvalid]
  exact h

/-- The codes stay GEN's as long as the tree and the codes stay (R107). -/
theorem CodesAreGenerated.congr {s t : State} (h : CodesAreGenerated s) (tree : t.treeTables = s.treeTables)
    (codes : t.codeTables = s.codeTables) : CodesAreGenerated t := by
  obtain ⟨-, -, -, hnode, hroot, -, -⟩ := treeTables_eq_iff.mp tree
  obtain ⟨hcode, hmaxlen, hvalid⟩ := codeTables_eq_iff.mp codes
  unfold CodesAreGenerated
  rw [genCodes_congr hroot hnode, hcode, hmaxlen, hvalid]
  exact h

/-- BUILD's writes are the tree BUILD makes: its nodes fit the table, and their number fits NNODES (R170). -/
theorem treeIsBuilt_of_buildTree {s t : State} (hfreq : t.freq = s.freq) (hroot : t.root = rootOf (buildTree s.freq).2)
    (hnnodes : t.nnodes = BitVec.ofNat 10 (buildTree s.freq).1.length)
    (hnode : t.node = writeNodes 0 (buildTree s.freq).1 s.node) : TreeIsBuilt t := by
  have hfits := buildTree_length_le s.freq
  intro _
  rw [hfreq, hroot, hnnodes, hnode]
  refine ⟨rfl, ?_, fun i n hn => ?_⟩
  · rw [BitVec.toNat_ofNat]
    exact Nat.mod_eq_of_lt (by omega)
  · have hi : i < (buildTree s.freq).1.length := (List.getElem?_eq_some_iff.mp hn).1
    have hentry := writeNodes_get? (k := 0) hn (show 0 + i < 511 by omega) s.node
    rwa [Nat.zero_add] at hentry

/-- GEN's writes are the codes GEN makes: the longest length fits MAXLEN (R190, R194). -/
theorem codesAreGenerated_of_genCodes {s t : State} {c : CodeTable} {m : Nat} (tree : t.treeTables = s.treeTables)
    (hgen : genCodes s = .ok (c, m)) (hcode : t.code = c) (hmaxlen : t.maxlen = BitVec.ofNat 8 m) : CodesAreGenerated t := by
  obtain ⟨-, -, -, hnode, hroot, -, -⟩ := treeTables_eq_iff.mp tree
  have hm : m % 2 ^ 8 = m := Nat.mod_eq_of_lt ((genCodes_maxlen_le hgen).trans_lt (by decide))
  intro _
  rw [genCodes_congr hroot hnode, hgen, hcode, hmaxlen, BitVec.toNat_ofNat, hm]

/-- Settles O59, by what a step can do to the tables: only BUILD makes a tree and only GEN makes codes. A step that changes the
counts or makes a tree starts with no tree, and so with no codes (R71). -/
theorem treeAndCodesKept : Obligations.TreeAndCodesKept := by
  intro s t hphase htree hcodes h
  obtain ⟨hphase, -, -⟩ := hphase
  have hnoCodes : s.treeValid = false → t.codeTables = s.codeTables → CodesAreGenerated t := by
    intro hv codes
    obtain ⟨-, -, hsame⟩ := codeTables_eq_iff.mp codes
    obtain ⟨hnone, -⟩ := hphase hv
    exact codesAreGenerated_of_not_codeValid (hsame.trans hnone)
  cases step_tables h with
  | kept tree codes => exact ⟨htree.congr tree, hcodes.congr tree codes⟩
  | reset tree codes => exact ⟨treeIsBuilt_of_not_treeValid tree, codesAreGenerated_of_not_codeValid codes⟩
  | counted before after codes => exact ⟨treeIsBuilt_of_not_treeValid after, hnoCodes before codes⟩
  | built before codes freq root nnodes node => exact ⟨treeIsBuilt_of_buildTree freq root nnodes node, hnoCodes before codes⟩
  | generated before tree c m gen code maxlen =>
    exact ⟨htree.congr tree, codesAreGenerated_of_genCodes tree gen code maxlen⟩

end Sys2Proof.Machine

/-! # Encoding (spec/30_encoding.md): the opcode map, the round trips, the illegal words, and the command line -/

namespace Sys2Proof

/-! ## The opcode map (R121-R125) -/

/-- The rows of the opcode map are those of the 13 opcodes (R125). -/
theorem mem_opcodeMap_iff {r : Row} : r ∈ opcodeMap ↔ ∃ o : Opcode, r = o.row := by
  constructor
  · intro h
    have hrow : ∀ r ∈ opcodeMap, r = r.opcode.row := by decide
    exact ⟨r.opcode, hrow r h⟩
  · rintro ⟨o, rfl⟩
    cases o <;> decide

/-- A row hits a word when the word agrees with the match under the mask (R125). -/
theorem hits_row_iff {o : Opcode} {w : Word} : o.row.hits w = true ↔ w &&& o.format.mask = o.pattern := beq_iff_eq

/-- A word is hit by at most one row (R125). -/
theorem opcode_eq_of_hits {o p : Opcode} {w : Word} (ho : o.row.hits w = true) (hp : p.row.hits w = true) : o = p := by
  by_contra hne
  have hmem (q : Opcode) : q.row ∈ opcodeMap := mem_opcodeMap_iff.mpr ⟨q, rfl⟩
  have hrow : o.row ≠ p.row := fun h => hne (congrArg Row.opcode h)
  have hsymm : Std.Symm fun a b : Row => a.pattern &&& (a.mask &&& b.mask) ≠ b.pattern &&& (a.mask &&& b.mask) :=
    ⟨fun a b h => by rw [BitVec.and_comm b.mask]; exact h.symm⟩
  refine opcodeMap_disjoint.forall (hmem o) (hmem p) hrow ?_
  have hpat {q : Opcode} (h : q.row.hits w = true) : q.row.pattern = w &&& q.row.mask := (hits_row_iff.mp h).symm
  rw [hpat ho, hpat hp]
  ext i
  simp only [BitVec.getElem_and]
  grind

/-- A word decodes to the command of the row that hits it, with the word's operands (R126). -/
theorem decode_eq_ok_iff {w : Word} {i : Instr} :
    decode w = .ok i ↔ ∃ o : Opcode, o.row.hits w = true ∧ i = o.withOperands w := by
  constructor
  · intro h
    obtain ⟨r, hr, hhit, rfl⟩ := decode_ok h
    obtain ⟨o, rfl⟩ := mem_opcodeMap_iff.mp hr
    exact ⟨o, hhit, rfl⟩
  · rintro ⟨o, hhit, rfl⟩
    cases hd : decode w with
    | error e =>
      have hnone := (decode_error hd).1 o.row (mem_opcodeMap_iff.mpr ⟨o, rfl⟩)
      simp [hhit] at hnone
    | ok j =>
      obtain ⟨r, hr, hhit', rfl⟩ := decode_ok hd
      obtain ⟨p, rfl⟩ := mem_opcodeMap_iff.mp hr
      rw [opcode_eq_of_hits hhit hhit']
      rfl

/-- A word decodes to no command exactly when no row hits it (R127). -/
theorem decode_error_iff {w : Word} : (∃ e, decode w = .error e) ↔ ¬ ∃ o : Opcode, o.row.hits w = true := by
  constructor
  · rintro ⟨e, h⟩ ⟨o, ho⟩
    rw [decode_eq_ok_iff.mpr ⟨o, ho, rfl⟩] at h
    cases h
  · intro h
    cases hd : decode w with
    | error e => exact ⟨e, rfl⟩
    | ok i =>
      obtain ⟨o, ho, -⟩ := decode_eq_ok_iff.mp hd
      exact absurd ⟨o, ho⟩ h

/-! ## The operand fields (R122-R124) -/

/-- How many bits, from bit 0 on, a format gives to operands (R121-R123). -/
def Format.operandWidth : Format → Nat
  | .n => 0
  | .s => 8
  | .b => 12

/-- A format's mask leaves out its operand bits and no other (R121-R123, R125). -/
theorem Format.getLsbD_mask (f : Format) (i : Nat) :
    f.mask.getLsbD i = (decide (i < 32) && decide (f.operandWidth ≤ i)) := by
  have hmask : f.mask = BitVec.allOnes 32 <<< f.operandWidth := by cases f <;> rfl
  rw [hmask, BitVec.getLsbD_shiftLeft, BitVec.getLsbD_allOnes]
  grind

/-- The bits that a format's mask leaves out are its operand bits (R121-R123). -/
theorem Format.getLsbD_and_not_mask (f : Format) (w : Word) (i : Nat) :
    (w &&& ~~~f.mask).getLsbD i = (decide (i < f.operandWidth) && w.getLsbD i) := by
  grind [f.getLsbD_mask i]

/-- The encoder puts the operands of a word back where the word has them (R122-R124). -/
theorem operandBits_withOperands (o : Opcode) (w : Word) : (o.withOperands w).operandBits = w &&& ~~~o.format.mask := by
  apply BitVec.eq_of_getLsbD_eq
  intro i hi
  rw [Format.getLsbD_and_not_mask]
  have hsym : ((symOf w).setWidth 32).getLsbD i = (decide (i < 8) && w.getLsbD i) := by grind [symOf]
  have hbyte : ((nbOf w).setWidth 32 <<< 8 ||| (byteOf w).setWidth 32).getLsbD i = (decide (i < 12) && w.getLsbD i) := by
    grind [byteOf, nbOf]
  cases o with
  | freqAdd | freqSet | encSym => exact hsym
  | decByte => exact hbyte
  | nop | reset | freqClr | build | gen | encStart | encFlush | decStart | decEnd => exact BitVec.getLsbD_zero

/-- The operands of a word do not change the command's row (R126). -/
theorem opcode_withOperands (o : Opcode) (w : Word) : (o.withOperands w).opcode = o := by cases o <;> rfl

/-- A symbol reads back from bits 7:0 of a word whose other bits come from a match (R122, R124). -/
theorem symOf_or_setWidth {p : Word} (hp : symOf p = 0#8) (sym : Byte) : symOf (p ||| sym.setWidth 32) = sym := by
  have hor : symOf (p ||| sym.setWidth 32) = symOf p ||| symOf (sym.setWidth 32) := BitVec.extractLsb'_or ..
  have hsym : symOf (sym.setWidth 32) = sym := by simp [symOf, BitVec.extractLsb'_setWidth_of_le]
  rw [hor, hp, hsym, BitVec.zero_or]

/-- BYTE reads back from the word of DEC_BYTE: NB stands above it (R123, R124). -/
theorem byteOf_encode_decByte (byte : Byte) (nb : BitVec 4) : byteOf (encode (.decByte byte nb)) = byte := by
  ext i hi
  have hp : (Opcode.pattern .decByte).getLsbD i = false := by interval_cases i <;> rfl
  grind [byteOf, encode, Instr.operandBits, Instr.opcode]

/-- NB reads back from the word of DEC_BYTE: BYTE stands below it (R123, R124). -/
theorem nbOf_encode_decByte (byte : Byte) (nb : BitVec 4) : nbOf (encode (.decByte byte nb)) = nb := by
  ext i hi
  have hp : (Opcode.pattern .decByte).getLsbD (8 + i) = false := by interval_cases i <;> rfl
  grind [nbOf, encode, Instr.operandBits, Instr.opcode]

/-- The decoder reads from a word's operand fields what the encoder puts there (R122-R124). -/
theorem withOperands_encode (i : Instr) : i.opcode.withOperands (encode i) = i := by
  cases i with
  | freqAdd sym => exact congrArg Instr.freqAdd (symOf_or_setWidth (p := Opcode.pattern .freqAdd) rfl sym)
  | freqSet sym => exact congrArg Instr.freqSet (symOf_or_setWidth (p := Opcode.pattern .freqSet) rfl sym)
  | encSym sym => exact congrArg Instr.encSym (symOf_or_setWidth (p := Opcode.pattern .encSym) rfl sym)
  | decByte byte nb => exact congrArg₂ Instr.decByte (byteOf_encode_decByte byte nb) (nbOf_encode_decByte byte nb)
  | nop | reset | freqClr | build | gen | encStart | encFlush | decStart | decEnd => rfl

/-- The word of a command is hit by the command's row (R125). -/
theorem hits_encode (i : Instr) : i.opcode.row.hits (encode i) = true := by
  have hrow : Laws.EncodesInItsRow.Statement i := by
    cases i with
    | nop => exact Laws.EncodesInItsRow.nop
    | reset => exact Laws.EncodesInItsRow.reset
    | freqClr => exact Laws.EncodesInItsRow.freqClr
    | freqAdd sym => exact Laws.EncodesInItsRow.freqAdd sym
    | freqSet sym => exact Laws.EncodesInItsRow.freqSet sym
    | build => exact Laws.EncodesInItsRow.build
    | gen => exact Laws.EncodesInItsRow.gen
    | encStart => exact Laws.EncodesInItsRow.encStart
    | encSym sym => exact Laws.EncodesInItsRow.encSym sym
    | encFlush => exact Laws.EncodesInItsRow.encFlush
    | decStart => exact Laws.EncodesInItsRow.decStart
    | decByte byte nb => exact Laws.EncodesInItsRow.decByte byte nb
    | decEnd => exact Laws.EncodesInItsRow.decEnd
  exact hrow.1

/-! ## The round trips -/

/-- Settles O1: the row of a command hits its word, and the word's operand fields hold the command's operands. -/
theorem decodeOfEncodeIsTheCommand : Obligations.DecodeOfEncodeIsTheCommand :=
  fun i => decode_eq_ok_iff.mpr ⟨i.opcode, hits_encode i, (withOperands_encode i).symm⟩

/-- Settles O2: the bits under the mask are the row's match, and the others are the operands'. -/
theorem encodeOfDecodeIsTheWord : Obligations.EncodeOfDecodeIsTheWord := by
  intro w i h
  obtain ⟨o, hhit, rfl⟩ := decode_eq_ok_iff.mp h
  calc encode (o.withOperands w)
      = o.pattern ||| (w &&& ~~~o.format.mask) := by rw [encode, opcode_withOperands, operandBits_withOperands]
    _ = (w &&& o.format.mask) ||| (w &&& ~~~o.format.mask) := by rw [hits_row_iff.mp hhit]
    _ = w := by rw [← BitVec.and_or_distrib_left, BitVec.or_not_self, BitVec.and_allOnes]

/-- Settles O4: each word is the encoder's, so O1 decodes it. -/
theorem wordsOfTheSpecDecode : Obligations.WordsOfTheSpecDecode :=
  ⟨decodeOfEncodeIsTheCommand .nop, decodeOfEncodeIsTheCommand .reset, decodeOfEncodeIsTheCommand (.freqAdd 0xFF#8),
    decodeOfEncodeIsTheCommand (.freqSet 0x61#8), decodeOfEncodeIsTheCommand .build, decodeOfEncodeIsTheCommand .gen,
    decodeOfEncodeIsTheCommand (.encSym 0x63#8), decodeOfEncodeIsTheCommand (.decByte 0xA1#8 8#4),
    decodeOfEncodeIsTheCommand .decEnd⟩

/-! ## The illegal words (R127) -/

/-- The bits that a format reserves are 0 (R121-R123). -/
def Format.ReservedClear : Format → Word → Prop
  | .n, w => w.extractLsb' 0 24 = 0#24
  | .s, w => w.extractLsb' 8 16 = 0#16
  | .b, w => w.extractLsb' 12 12 = 0#12

/-- The OPCs of a format (R125). -/
def Format.opcs : Format → List Byte
  | .n => [0x00#8, 0x01#8, 0x10#8, 0x20#8, 0x30#8, 0x40#8, 0x42#8, 0x50#8, 0x52#8]
  | .s => [0x11#8, 0x12#8, 0x41#8]
  | .b => [0x51#8]

/-- The OPCs of a format are those of the map's rows of that format (R125). -/
theorem Format.mem_opcs_iff {f : Format} {c : Byte} : c ∈ f.opcs ↔ ∃ o : Opcode, o.format = f ∧ opcOf o.pattern = c := by
  have hopcs : f.opcs = (opcodeMap.filter (·.opcode.format = f)).map (opcOf ·.pattern) := by cases f <;> rfl
  rw [hopcs]
  constructor
  · intro h
    obtain ⟨r, hr, rfl⟩ := List.mem_map.mp h
    obtain ⟨hmem, hf⟩ := List.mem_filter.mp hr
    obtain ⟨o, rfl⟩ := mem_opcodeMap_iff.mp hmem
    exact ⟨o, of_decide_eq_true hf, rfl⟩
  · rintro ⟨o, rfl, rfl⟩
    have hmem : o.row ∈ opcodeMap := mem_opcodeMap_iff.mpr ⟨o, rfl⟩
    exact List.mem_map.mpr ⟨o.row, List.mem_filter.mpr ⟨hmem, decide_eq_true rfl⟩, rfl⟩

/-- Under a format's mask a word is an OPC and nothing else exactly when it has that OPC and its reserved bits are 0. -/
theorem Format.and_mask_eq_iff (f : Format) (c : Byte) (w : Word) :
    w &&& f.mask = (c ++ 0#24 : BitVec 32) ↔ opcOf w = c ∧ f.ReservedClear w := by
  have hmask : w &&& f.mask = w >>> f.operandWidth <<< f.operandWidth := by
    apply BitVec.eq_of_getLsbD_eq
    intro i hi
    grind [f.getLsbD_mask i]
  have hopc : (c ++ 0#24 : BitVec 32).toNat = c.toNat * 2 ^ 24 :=
    (BitVec.toNat_append ..).trans (by simp [Nat.shiftLeft_eq])
  rw [hmask, ← BitVec.toNat_inj, hopc]
  cases f <;>
    simp [operandWidth, ReservedClear, opcOf, ← BitVec.toNat_inj, Nat.shiftLeft_eq, Nat.shiftRight_eq_div_pow] <;> omega

/-- A row hits the words that have its OPC and set no bit its format reserves (R121-R123, R125). -/
theorem hits_row_iff_fields {o : Opcode} {w : Word} :
    o.row.hits w = true ↔ opcOf w = opcOf o.pattern ∧ o.format.ReservedClear w := by
  have hpattern : o.pattern = (opcOf o.pattern ++ 0#24 : BitVec 32) := by cases o <;> rfl
  rw [hits_row_iff, ← Format.and_mask_eq_iff, ← hpattern]

/-- Some row hits a word exactly when its OPC is one of some format's and no bit which that format reserves is set (R127). -/
theorem exists_hits_iff {w : Word} :
    (∃ o : Opcode, o.row.hits w = true) ↔ ∃ f : Format, opcOf w ∈ f.opcs ∧ f.ReservedClear w := by
  constructor
  · rintro ⟨o, h⟩
    obtain ⟨hopc, hres⟩ := hits_row_iff_fields.mp h
    exact ⟨o.format, Format.mem_opcs_iff.mpr ⟨o, rfl, hopc.symm⟩, hres⟩
  · rintro ⟨f, hopc, hres⟩
    obtain ⟨o, rfl, ho⟩ := Format.mem_opcs_iff.mp hopc
    exact ⟨o, hits_row_iff_fields.mpr ⟨ho.symm, hres⟩⟩

/-- The words that R127 calls illegal are those that do not decode. -/
theorem decode_error_iff_fields {w : Word} : (∃ e, decode w = .error e) ↔
    ¬ ((opcOf w ∈ Format.opcs .n ∧ w.extractLsb' 0 24 = 0#24) ∨ (opcOf w ∈ Format.opcs .s ∧ w.extractLsb' 8 16 = 0#16) ∨
       (opcOf w = 0x51#8 ∧ w.extractLsb' 12 12 = 0#12)) := by
  rw [decode_error_iff, exists_hits_iff, not_iff_not]
  constructor
  · rintro ⟨f, hopc, hres⟩
    cases f with
    | n => exact .inl ⟨hopc, hres⟩
    | s => exact .inr (.inl ⟨hopc, hres⟩)
    | b => exact .inr (.inr ⟨List.mem_singleton.mp hopc, hres⟩)
  · rintro (⟨hopc, hres⟩ | ⟨hopc, hres⟩ | ⟨hopc, hres⟩)
    · exact ⟨.n, hopc, hres⟩
    · exact ⟨.s, hopc, hres⟩
    · exact ⟨.b, List.mem_singleton.mpr hopc, hres⟩

end Sys2Proof

namespace Sys2Proof.Machine

/-- A word that does not decode is not RESET. -/
theorem ne_resetWord_of_decode_error {w : Word} {e : DecodeError} (h : decode w = .error e) : w ≠ resetWord := by
  rintro rfl
  cases h

/-- With no error and no command in flight, any word but RESET is latched (R261 case 4). -/
theorem accept_eq_latch {s : State} {w : Word} (hw : w ≠ resetWord) (he : s.err = false) (hb : s.busy = false) :
    s.accept w = s.latch w := by
  simp [State.accept, hw, he, hb]

/-- The core's turn with a word in flight that is no command (R127, R262). -/
theorem coreTurn_illegal {s : State} {e : DecodeError} (hb : s.busy = true) (h : decode s.pend = .error e) :
    coreTurn s = .next (s.raise .illegal) := by
  simp [coreTurn, hb, coreStep, h]

/-- The first error is recorded with the word in PEND (R264). -/
theorem raise_first {s : State} (h : s.errcode = none) (e : ErrCode) :
    s.raise e = { s with err := true, errcode := some e, errcmd := s.pend, busy := false, done := true } := by
  simp [State.raise, State.recordError, State.complete, h]

/-- Settles O3: a word that no row hits is latched like any other, and its core step raises E_ILLEGAL. -/
theorem illegalWordsEndInEIllegal : Obligations.IllegalWordsEndInEIllegal := by
  refine ⟨fun w => decode_error_iff_fields, ?_⟩
  rintro s w ⟨e, hd⟩ he hb
  rw [accept_eq_latch (ne_resetWord_of_decode_error hd) he hb]
  exact ⟨rfl, fun hn => (coreTurn_illegal rfl hd).trans (congrArg _ (raise_first (s := s.latch w) hn _))⟩

/-! ## The command line (R141): what the core does is the same whatever the bus answers and whatever inputs are to come -/

/-- s with another bus answer and other inputs to come. -/
def State.onBus (r : BusResp) (l : List Input) (s : State) : State := { s with resp := r, inputs := l }

/-- What the emission of symbols does (R232) does not depend on them. -/
theorem emitAll_onBus (s : State) (r : BusResp) (l : List Input) (bs : List Byte) :
    (s.onBus r l).emitAll bs = (s.emitAll bs).onBus r l := by
  induction bs generalizing s with
  | nil => rfl
  | cons b bs ih => exact ih (s.emit b)

/-- Nor does PushBit (R213). -/
theorem pushBit_onBus (s : State) (r : BusResp) (l : List Input) (b : Bool) :
    (s.onBus r l).pushBit b = (s.pushBit b).onBus r l := by
  by_cases h : s.accN = 7#3
  · rw [State.pushBit_full h, State.pushBit_full (s := s.onBus r l) h]
    rfl
  · rw [State.pushBit_pending h, State.pushBit_pending (s := s.onBus r l) h]
    rfl

/-- Nor does the packing of a bit string (R211). -/
theorem pushBits_onBus (s : State) (r : BusResp) (l : List Input) (bs : List Bool) :
    (s.onBus r l).pushBits bs = (s.pushBits bs).onBus r l := by
  induction bs generalizing s with
  | nil => rfl
  | cons b bs ih => rw [State.pushBits, pushBit_onBus, ih, State.pushBits]

/-- Nor does the decoder's walk (R231, R232). -/
theorem walkBits_onBus (s : State) (r : BusResp) (l : List Input) (cur : NodeIdx) (bs : List Bool) :
    walkBits (s.onBus r l) cur bs = walkBits s cur bs := by
  induction bs generalizing cur with
  | nil => rfl
  | cons b bs ih =>
    have hstep : treeStep (s.onBus r l) cur b = treeStep s cur b := rfl
    simp only [walkBits, hstep, ih]

/-- No command body reads the bus answer or the inputs to come, and none writes them. -/
theorem innerBody_onBus (i : Instr) (s : State) (r : BusResp) (l : List Input) :
    innerBody i (s.onBus r l) = (innerBody i s).map (State.onBus r l) := by
  have hite (c : Prop) [Decidable c] (a b : Except ErrCode State) :
      (if c then a else b).map (State.onBus r l) = if c then a.map (State.onBus r l) else b.map (State.onBus r l) :=
    apply_ite ..
  cases i with
  | nop | reset | freqClr | build | encStart | decStart | decEnd => rfl
  | freqAdd sym =>
    dsimp only [innerBody, freqAddBody]
    rw [hite]
    rfl
  | freqSet sym =>
    dsimp only [innerBody, freqSetBody]
    rw [hite]
    rfl
  | encFlush =>
    dsimp only [innerBody, encFlushBody]
    rw [hite, hite]
    rfl
  | gen =>
    have hcodes : genCodes (s.onBus r l) = genCodes s := rfl
    dsimp only [innerBody, genBody]
    rw [hcodes]
    cases genCodes s <;> rfl
  | encSym sym =>
    dsimp only [innerBody, encSymBody]
    rw [hite, hite, pushBits_onBus]
    rfl
  | decByte byte nb =>
    have hwalk : walkBits (s.onBus r l) (s.onBus r l).cursor = walkBits s s.cursor := funext (walkBits_onBus s r l s.cursor)
    dsimp only [innerBody, decByteBody]
    rw [hwalk, hite]
    cases walkBits s s.cursor (streamBits byte nb.toNat) with
    | error e => rfl
    | ok p =>
      dsimp only
      rw [hite, emitAll_onBus]
      rfl

/-- Nor does a command body with its precondition (R265). -/
theorem commandBody_onBus (i : Instr) (s : State) (r : BusResp) (l : List Input) :
    commandBody i (s.onBus r l) = (commandBody i s).map (State.onBus r l) := by
  have hpre : precondition i (s.onBus r l) = precondition i s := by cases i <;> rfl
  unfold commandBody
  rw [hpre, innerBody_onBus]
  cases precondition i s <;> rfl

/-- A command does the same whatever the bus answers and whatever inputs are to come. -/
theorem exec_onBus {i : Instr} {s t : State} (h : exec i s = .next t) (r : BusResp) (l : List Input) :
    exec i (s.onBus r l) = .next (t.onBus r l) := by
  by_cases hi : i = .reset
  · subst hi
    cases h
    rfl
  · rw [exec_eq_finish hi] at h ⊢
    rw [commandBody_onBus]
    rcases finish_cases h with ⟨s1, hbody, rfl⟩ | ⟨e, hbody, rfl⟩ <;> rw [hbody] <;> rfl

/-- So does a core step (R262). -/
theorem coreStep_onBus {s t : State} (h : coreStep s = .next t) (r : BusResp) (l : List Input) :
    coreStep (s.onBus r l) = .next (t.onBus r l) := by
  have hpend : (s.onBus r l).pend = s.pend := rfl
  unfold coreStep at h ⊢
  rw [hpend]
  cases hd : decode s.pend with
  | ok i => rw [hd] at h; exact exec_onBus h r l
  | error e => rw [hd] at h; cases h; rfl

/-- So does the core's turn (R262, R279). -/
theorem coreTurn_onBus {s t : State} (h : coreTurn s = .next t) (r : BusResp) (l : List Input) :
    coreTurn (s.onBus r l) = .next (t.onBus r l) := by
  have hbusy : (s.onBus r l).busy = s.busy := rfl
  unfold coreTurn at h ⊢
  rw [hbusy]
  split at h
  · next hb => rw [if_pos hb]; exact coreStep_onBus h r l
  · next hb => rw [if_neg hb]; cases h; rfl

/-- So does acceptance (R261). -/
theorem accept_onBus (s : State) (w : Word) (r : BusResp) (l : List Input) :
    (s.onBus r l).accept w = (s.accept w).onBus r l := by
  unfold State.accept
  rw [apply_ite (State.onBus r l), apply_ite (State.onBus r l), apply_ite (State.onBus r l)]
  rfl

/-- Acceptance keeps the pin rst_n and draws no free value. -/
theorem accept_keeps (s : State) (w : Word) : (s.accept w).rstN = s.rstN ∧ (s.accept w).draws = s.draws := by
  obtain ⟨hrst, -, -, hdraws, -⟩ := memWrite_keeps s 0x004#32 w
  exact ⟨hrst, hdraws⟩

/-- The core's turn always has a next state (R262, R279). -/
theorem coreTurn_next (s : State) : ∃ t, coreTurn s = .next t := by
  unfold coreTurn
  split
  · exact coreStep_next s
  · exact ⟨s, rfl⟩

/-- The core's turn keeps the pin rst_n and draws no free value. -/
theorem coreTurn_keeps {s t : State} (h : coreTurn s = .next t) : t.rstN = s.rstN ∧ t.draws = s.draws := by
  unfold coreTurn at h
  split at h
  · rcases coreStep_cases h with ⟨i, -, hexec⟩ | ⟨e, -, rfl⟩
    · obtain ⟨-, hrst, -, -, -, hdraws⟩ := exec_keeps hexec
      exact ⟨hrst, hdraws⟩
    · exact ⟨rfl, rfl⟩
  · cases h
    exact ⟨rfl, rfl⟩

/-- The core's turn with rst_n high (R262, R279). -/
theorem step_core {s : State} (hi : s.nextInput = .core) (hr : s.rstN = true) : step s = coreTurn s.takeInput := by
  cases hb : s.busy with
  | true => rw [step_core_busy hi hr hb, coreTurn, State.takeInput_busy, hb, if_pos rfl]
  | false => rw [step_core_idle hi hr hb, coreTurn, State.takeInput_busy, hb]; rfl

/-- The core's turn runs on a state as it does without the bus answer and the inputs that stand in it. -/
theorem step_core_onBus {s t : State} (hr : s.rstN = true) (h : coreTurn s = .next t) (r : BusResp) (rest : List Input) :
    step (s.onBus r (.core :: rest)) = .next (t.onBus .none rest) :=
  (step_core (s := s.onBus r (.core :: rest)) rfl hr).trans (coreTurn_onBus h .none rest)

/-- A write to CMD is an acceptance (R94, R261). -/
theorem step_writeCmd {s : State} {w : Word} {rest : List Input} (hr : s.rstN = true)
    (hi : s.inputs = .bus (.write 0x004#32 w) :: rest) : step s = .next ((s.accept w).onBus .written rest) := by
  have htake : s.takeInput = s.onBus .none rest := by rw [State.takeInput, hi]; rfl
  have hwrite : (s.onBus .none rest).memWrite 0x004#32 w = (s.accept w).onBus .none rest := accept_onBus ..
  rw [step_bus (nextInput_cons hi) hr, htake]
  dsimp only [State.busAccess]
  rw [hwrite]
  rfl

/-- Settles O14: the write is the acceptance, the core's turn the completion, and the poll a read of STATUS. -/
theorem commandLineIssuesTheCommand : Obligations.CommandLineIssuesTheCommand := by
  intro s i rest hr hi
  obtain ⟨u, hu⟩ := coreTurn_next (s.accept (encode i))
  refine ⟨u, by rw [issue, hu]; rfl, ?_⟩
  obtain ⟨haccRst, haccDraws⟩ := accept_keeps s (encode i)
  obtain ⟨hrst, hdraws⟩ := coreTurn_keeps hu
  have haccept : step s = .next ((s.accept (encode i)).onBus .written (HostProgram.wait ++ rest)) := step_writeCmd hr hi
  have hcomplete : step ((s.accept (encode i)).onBus .written (HostProgram.wait ++ rest)) =
      .next (u.onBus .none (HostProgram.rd 0x00C#32 ++ rest)) := step_core_onBus (haccRst.trans hr) hu ..
  have hpoll : step (u.onBus .none (HostProgram.rd 0x00C#32 ++ rest)) =
      .next ((u.onBus .none rest).busAccess (.read 0x00C#32)) := step_bus rfl ((hrst.trans haccRst).trans hr)
  rw [run_succ haccept, run_succ hcomplete, run_succ hpoll, run_zero, State.busAccess, memRead_control (by decide),
    ← hdraws.trans haccDraws]
  rfl

end Sys2Proof.Machine

/-! # The errors and the latch between steps (R73, R151, R261): what a step can do to them -/

namespace Sys2Proof.Machine

/-- The errors and the command in flight (R37, R38, R60). -/
structure Lifecycle where
  err     : Bool
  errcode : Option ErrCode
  busy    : Bool
  pend    : Word

/-- The errors and the command in flight of a state. -/
def State.lifecycle (s : State) : Lifecycle := ⟨s.err, s.errcode, s.busy, s.pend⟩

/-- What a step can do to the errors and the command in flight, from a to b. -/
inductive LifecycleChange (a b : Lifecycle) : Prop
  /-- It leaves the errors as they are, and a command in flight afterwards was in flight before: no access to CMD, a write
  discarded in FAULT (R261 case 2), or a completion without an error (R262). -/
  | kept (err : b.err = a.err) (errcode : b.errcode = a.errcode) (latch : b.busy = true → a.busy = true ∧ b.pend = a.pend)
  /-- It records an error: E_BUSY at acceptance (R261 case 3), or an error at completion (R262). -/
  | recorded (err : b.err = true) (errcode : b.errcode ≠ none) (latch : b.busy = true → a.busy = true ∧ b.pend = a.pend)
  /-- It latches a command (R261 case 4). -/
  | latched (err : b.err = a.err) (errcode : b.errcode = a.errcode) (notReset : b.pend ≠ resetWord)
  /-- ResetAll (R301). -/
  | reset (err : b.err = false) (errcode : b.errcode = none) (idle : b.busy = false)

/-- Taking the input off the list leaves the errors and the command in flight as they are. -/
theorem State.takeInput_lifecycle (s : State) : s.takeInput.lifecycle = s.lifecycle := rfl

/-- Nothing happens to the errors and the command in flight. -/
theorem LifecycleChange.refl (a : Lifecycle) : LifecycleChange a a := .kept rfl rfl fun hb => ⟨hb, rfl⟩

/-- ResetAll (R301). -/
theorem resetAll_lifecycle (s : State) : LifecycleChange s.lifecycle s.resetAll.lifecycle := .reset rfl rfl rfl

/-- After RecordError some error is recorded (R264). -/
theorem recordError_errcode_ne_none (s : State) (e : ErrCode) (w : Word) : (s.recordError e w).errcode ≠ none := by
  rw [State.recordError_errcode]
  split
  · exact Option.some_ne_none e
  · assumption

/-- A command whose body succeeds (R262). -/
theorem complete_lifecycle {s t : State} (h : SameOutside s t) : LifecycleChange s.lifecycle t.complete.lifecycle := by
  obtain ⟨-, -, -, herr, herrcode, -⟩ := h
  exact .kept herr herrcode nofun

/-- A command that takes an error (R262). -/
theorem raise_lifecycle (s : State) (e : ErrCode) : LifecycleChange s.lifecycle (s.raise e).lifecycle :=
  .recorded rfl (recordError_errcode_ne_none s e s.pend) nofun

/-- Acceptance (R261). -/
theorem accept_lifecycle (s : State) (w : Word) : LifecycleChange s.lifecycle (s.accept w).lifecycle := by
  rcases accept_cases s w with ⟨-, h⟩ | ⟨-, -, h⟩ | ⟨-, -, -, h⟩ | ⟨hw, -, -, h⟩ <;> rw [h]
  · exact resetAll_lifecycle s
  · exact .refl _
  · exact .recorded rfl (recordError_errcode_ne_none s .busy w) fun hb => ⟨hb, rfl⟩
  · exact .latched rfl rfl hw

/-- A bus access acts on them by an acceptance only (R94, R95). -/
theorem busAccess_lifecycle (s : State) (op : BusOp) : LifecycleChange s.lifecycle (s.busAccess op).lifecycle := by
  cases op with
  | read addr => exact .refl _
  | write addr v =>
    have hwrite : LifecycleChange s.lifecycle (s.memWrite addr v).lifecycle := by
      rcases memWrite_cases s addr v with h | h | h | h | h <;> rw [h]
      case inl => exact accept_lifecycle s v
      all_goals exact .refl _
    exact hwrite

/-- A core step (R262): the command in flight completes or takes an error. -/
theorem coreStep_lifecycle {s t : State} (h : coreStep s = .next t) : LifecycleChange s.lifecycle t.lifecycle := by
  rcases coreStep_cases h with ⟨i, -, hexec⟩ | ⟨e, -, rfl⟩
  · rcases exec_cases hexec with ⟨-, rfl⟩ | ⟨-, -, s1, hbody, rfl⟩ | ⟨-, e, -, rfl⟩
    · exact resetAll_lifecycle s
    · exact complete_lifecycle (commandBody_sameOutside hbody)
    · exact raise_lifecycle s e
  · exact raise_lifecycle s .illegal

/-- rst_n going low touches neither (R300). -/
theorem driveReset_lifecycle (s : State) : LifecycleChange s.lifecycle s.driveReset.lifecycle := by
  unfold State.driveReset
  split <;> exact .refl _

/-- rst_n going high touches neither (R302). -/
theorem releaseReset_lifecycle {s t : State} (h : releaseReset s = .next t) : LifecycleChange s.lifecycle t.lifecycle := by
  unfold releaseReset at h
  split at h
  · cases h; exact .refl _
  · split at h <;> cases h
    exact .refl _

/-- What any step does to the errors and the latch. -/
theorem step_lifecycle {s t : State} (h : step s = .next t) : LifecycleChange s.lifecycle t.lifecycle := by
  obtain ⟨u, rfl, hcases⟩ := step_cases h
  rw [← State.takeInput_lifecycle]
  rcases hcases with ⟨-, op, -, rfl⟩ | ⟨-, -, -, hcore⟩ | ⟨-, -, -, rfl⟩ | ⟨-, -, rfl⟩ | ⟨-, -, rfl⟩ | ⟨-, rfl⟩ | ⟨-, hhigh⟩
  · exact busAccess_lifecycle _ op
  · exact coreStep_lifecycle hcore
  · exact .refl _
  · exact .refl _
  · exact .reset rfl rfl rfl
  · exact driveReset_lifecycle _
  · exact releaseReset_lifecycle hhigh

/-- ERR and ERRCODE are kept together, set together or cleared together (R73). -/
theorem ErrorsConsistent.of_change {s t : State} (hs : ErrorsConsistent s) (h : LifecycleChange s.lifecycle t.lifecycle) :
    ErrorsConsistent t := by
  cases h with
  | kept err errcode | latched err errcode =>
    have hcode : t.errcode ≠ none ↔ s.errcode ≠ none := not_congr (Eq.congr_left errcode)
    exact (Eq.congr_left err).trans (hs.trans hcode.symm)
  | recorded err errcode => exact iff_of_true err errcode
  | reset err errcode => exact iff_of_false (ne_true_of_eq_false err) (not_not_intro errcode)

/-- A command in flight was in flight before, or was just latched and is no RESET (R151). -/
theorem LatchHoldsNoReset.of_change {s t : State} (hs : LatchHoldsNoReset s)
    (h : LifecycleChange s.lifecycle t.lifecycle) : LatchHoldsNoReset t := by
  intro hb
  cases h with
  | kept _ _ latch | recorded _ _ latch =>
    obtain ⟨hbusy, hpend⟩ := latch hb
    exact fun hreset => hs hbusy (hpend.symm.trans hreset)
  | latched _ _ notReset => exact notReset
  | reset _ _ idle => exact absurd hb (ne_true_of_eq_false idle)

/-- Settles O58, by what a step can do to the errors and the latch. -/
theorem errorsAndLatchKept : Obligations.ErrorsAndLatchKept :=
  fun _ _ herrors hlatch h => ⟨herrors.of_change (step_lifecycle h), hlatch.of_change (step_lifecycle h)⟩

end Sys2Proof.Machine

/-! # Control (spec/40_control.md): NOP and RESET -/

namespace Sys2Proof

/-! ## The words of a command without operands (R121, R127) -/

/-- An opcode's match is its OPC over 24 zeros (R125). -/
theorem pattern_eq_opcOf_append (o : Opcode) : o.pattern = (opcOf o.pattern ++ 0#24 : BitVec 32) := by cases o <;> rfl

/-- An opcode's row hits its match (R125). -/
theorem hits_pattern (o : Opcode) : o.row.hits o.pattern = true := by cases o <;> rfl

/-- No two opcodes share an OPC (R125). -/
theorem opcode_eq_of_opcOf_pattern_eq {o p : Opcode} (h : opcOf o.pattern = opcOf p.pattern) : o = p := by
  have hpattern : o.pattern = p.pattern :=
    calc o.pattern = (opcOf o.pattern ++ 0#24 : BitVec 32) := pattern_eq_opcOf_append o
      _ = (opcOf p.pattern ++ 0#24 : BitVec 32) := by rw [h]
      _ = p.pattern := (pattern_eq_opcOf_append p).symm
  exact opcode_eq_of_hits (hits_pattern o) (hpattern ▸ hits_pattern p)

/-- Of the words with the OPC of a command without operands, only the match decodes (R121, R127). -/
theorem decode_error_of_ne_pattern {o : Opcode} {w : Word} (hformat : o.format = .n) (hopc : opcOf w = opcOf o.pattern)
    (hne : w ≠ o.pattern) : ∃ e, decode w = .error e := by
  rw [decode_error_iff]
  rintro ⟨p, hp⟩
  obtain ⟨hopc', -⟩ := hits_row_iff_fields.mp hp
  obtain rfl := opcode_eq_of_opcOf_pattern_eq (hopc.symm.trans hopc')
  have hmask : Format.mask .n = BitVec.allOnes 32 := rfl
  rw [hits_row_iff, hformat, hmask, BitVec.and_allOnes] at hp
  exact hne hp

end Sys2Proof

namespace Sys2Proof.Machine

/-! ## Acceptance (R261) -/

/-- A write that reaches CMD is an acceptance (R94, R261). -/
theorem memWrite_cmd {addr : Word} (s : State) (w : Word) (h : alignAddr addr = 0x004) : s.memWrite addr w = s.accept w := by
  unfold State.memWrite
  rw [h]
  rfl

/-- RESET is performed at acceptance in every state (R261 case 1). -/
theorem accept_resetWord (s : State) : s.accept resetWord = s.resetAll := by simp [State.accept]

/-- In FAULT any word but RESET is discarded (R261 case 2). -/
theorem accept_eq_self {s : State} {w : Word} (hw : w ≠ resetWord) (he : s.err = true) : s.accept w = s := by
  simp [State.accept, hw, he]

/-- With a command in flight any word but RESET is E_BUSY (R261 case 3). -/
theorem accept_eq_recordError {s : State} {w : Word} (hw : w ≠ resetWord) (he : s.err = false) (hb : s.busy = true) :
    s.accept w = s.recordError .busy w := by
  simp [State.accept, hw, he, hb]

/-- With no command in flight the core's turn does nothing (R279). -/
theorem coreTurn_idle {s : State} (hb : s.busy = false) : coreTurn s = .next s := by
  simp [coreTurn, hb]

/-! ## NOP (R150) and RESET (R151) -/

/-- Settles O17: NOP's row has no operand bits, its body is empty, and its word is no RESET. -/
theorem nopOnlyCompletes : Obligations.NopOnlyCompletes := by
  have hdecode : decode 0x00000000#32 = .ok .nop := decodeOfEncodeIsTheCommand .nop
  have hnoReset : 0x00000000#32 ≠ resetWord := by decide
  refine ⟨fun w hopc => ?_, hdecode, fun s => ⟨exec_nop s, accept_eq_self hnoReset, accept_eq_recordError hnoReset⟩⟩
  by_cases hw : w = 0x00000000#32
  · exact .inl ⟨hw ▸ hdecode, hw⟩
  · exact .inr (decode_error_of_ne_pattern (o := .nop) rfl hopc hw)

/-- After ResetAll every count is 0 (R301). -/
theorem freqAt_resetAll (s : State) (sym : Byte) : s.resetAll.freqAt sym = 0#32 := Table.get_replicate 0#32 sym.toNat sym.isLt

/-- After ResetAll STATUS reads 0 (R37, R301). -/
theorem statusWord_resetAll (s : State) : s.resetAll.statusWord = 0#32 := by simp [State.statusWord, Mode.code]

/-- Settles O18: RESET's row has no operand bits, and a write of its word is ResetAll whatever is in flight. -/
theorem resetCommandPerformsResetAll : Obligations.ResetCommandPerformsResetAll := by
  refine ⟨decodeOfEncodeIsTheCommand .reset, fun w => decode_error_of_ne_pattern (o := .reset) rfl, fun s => ?_⟩
  have hwrite : s.memWrite 0x004#32 resetWord = s.resetAll := (memWrite_cmd s resetWord rfl).trans (accept_resetWord s)
  exact ⟨s.resetAll, exec_reset s, hwrite, coreTurn_idle rfl, rfl, freqAt_resetAll s, statusWord_resetAll s, rfl⟩

end Sys2Proof.Machine

/-! # The frequency store (spec/41_frequency.md): FREQ_CLR, FREQ_ADD, FREQ_SET and the counts of a text -/

namespace Sys2Proof.Machine

/-- A count after one count is written (R50). -/
theorem freqAt_setFreq (s : State) (sym b : Byte) (n : Word) :
    (s.setFreq sym n).freqAt b = if b = sym then n else s.freqAt b := by
  simp only [eq_comm (a := b)]
  exact State.freqAt_setFreq s sym b n

/-! ## FREQ_CLR (R160) and FREQ_ADD (R161) -/

/-- Settles O19: the precondition decides between E_SEQ and the body, which cannot fail. -/
theorem freqClrClearsTheTable : Obligations.FreqClrClearsTheTable := by
  refine ⟨decodeOfEncodeIsTheCommand .freqClr, fun s => ⟨fun hv => ?seq, fun hv => ?cleared⟩⟩
  case seq => exact exec_badSeq (by decide) (by simp [precondition, hv])
  case cleared =>
    exact ⟨_, exec_success (by decide) (by simp [precondition, hv]) rfl,
      fun sym => Table.get_replicate 0#32 sym.toNat sym.isLt, rfl⟩

/-- Settles O20: the body of FREQ_ADD turns on TOTAL alone, and writes one count. -/
theorem freqAddCountsOne : Obligations.FreqAddCountsOne := by
  refine fun s sym => ⟨decodeOfEncodeIsTheCommand (.freqAdd sym), fun hv => ?seq, fun hv ht => ?overflow,
    fun hv ht => ?counted⟩
  case seq => exact exec_badSeq (by simp) (by simp [precondition, hv])
  case overflow => exact exec_failure (by simp) (by simp [precondition, hv]) (if_pos ht)
  case counted =>
    exact ⟨_, exec_success (by simp) (by simp [precondition, hv]) (if_neg ht),
      fun b => freqAt_setFreq s sym b (s.freqAt sym + 1#32), rfl⟩

/-! ## FREQ_SET (R162) -/

/-- The exact sum of R162 in natural numbers, TOTAL counting every occurrence of the symbol (R70). -/
theorem freqSetTotal_eq {s : State} {sym : Byte} (h : (s.freqAt sym).toNat ≤ s.total.toNat) :
    freqSetTotal sym s = (s.total.toNat - (s.freqAt sym).toNat + s.parg.toNat : Nat) := by
  unfold freqSetTotal State.countOperand
  omega

/-- A bit that says whether a count is present, as a 9-bit word (R162). -/
theorem toNat_ofNat_bitNat_ne_zero (n : Word) :
    (BitVec.ofNat 9 (bitNat (n != 0#32))).toNat = if n = 0#32 then 0 else 1 := by
  by_cases h : n = 0#32 <;> simp [bitNat, h]

/-- NSYM loses the old entry and gains the new one, without wrapping (R162, R70). -/
theorem freqSetNsym_toNat {s : State} {sym : Byte} (hpresent : s.freqAt sym ≠ 0#32 → 1 ≤ s.nsym.toNat)
    (hle : s.nsym.toNat ≤ 256) :
    (freqSetNsym sym s).toNat + (if s.freqAt sym = 0#32 then 0 else 1) =
      s.nsym.toNat + (if s.parg = 0#32 then 0 else 1) := by
  have hnew := toNat_ofNat_bitNat_ne_zero s.parg
  have hold := toNat_ofNat_bitNat_ne_zero (s.freqAt sym)
  unfold freqSetNsym State.countOperand
  split_ifs at hnew hold ⊢ <;> bv_omega

/-- Settles O21: the body of FREQ_SET turns on the exact sum, which fits TOTAL when it raises no error. -/
theorem freqSetLoadsTheCount : Obligations.FreqSetLoadsTheCount := by
  refine fun s sym => ⟨decodeOfEncodeIsTheCommand (.freqSet sym), fun hv => ?seq, fun hv hle =>
    ⟨fun hbig => ?overflow, fun hfits hpresent hnsym => ?loaded⟩⟩
  case seq => exact exec_badSeq (by simp) (by simp [precondition, hv])
  case overflow =>
    have hsum : freqSetTotal sym s > 0xFFFFFFFF := by rw [freqSetTotal_eq hle]; omega
    exact exec_failure (by simp) (by simp [precondition, hv]) (if_pos hsum)
  case loaded =>
    have hsum : ¬ freqSetTotal sym s > 0xFFFFFFFF := by rw [freqSetTotal_eq hle]; omega
    have htotal : (BitVec.ofInt 32 (freqSetTotal sym s)).toNat =
        s.total.toNat - (s.freqAt sym).toNat + s.parg.toNat := by
      rw [freqSetTotal_eq hle, BitVec.ofInt_natCast, BitVec.toNat_ofNat, Nat.mod_eq_of_lt (by omega)]
    exact ⟨_, exec_success (by simp) (by simp [precondition, hv]) (if_neg hsum),
      fun b => freqAt_setFreq s sym b s.parg, htotal, freqSetNsym_toNat hpresent hnsym, rfl⟩

/-! ## Runs of commands (R141, R261, R262) -/

/-- Only RESET has the word of RESET (R151). -/
theorem encode_ne_resetWord {i : Instr} (hi : i ≠ .reset) : encode i ≠ resetWord := by
  intro h
  have hdecode := decodeOfEncodeIsTheCommand i
  rw [h] at hdecode
  exact hi (Except.ok.inj hdecode).symm

/-- Acceptance reads no count (R261). -/
@[simp] theorem freqAt_latch (s : State) (w : Word) (sym : Byte) : (s.latch w).freqAt sym = s.freqAt sym := rfl

/-- With no error and nothing in flight, a command but RESET is latched and runs (R261 case 4, R262). -/
theorem issue_eq_exec {s : State} {i : Instr} (hi : i ≠ .reset) (he : s.err = false) (hb : s.busy = false) :
    issue s i = stateOf (exec i (s.latch (encode i))) := by
  have hturn : coreTurn (s.latch (encode i)) = exec i (s.latch (encode i)) := by
    simp [coreTurn, coreStep, decodeOfEncodeIsTheCommand i]
  rw [issue, accept_eq_latch (encode_ne_resetWord hi) he hb, hturn]

/-- In FAULT with nothing in flight, a command but RESET is discarded (R261 case 2, R279). -/
theorem issue_fault {s : State} {i : Instr} (hi : i ≠ .reset) (he : s.err = true) (hb : s.busy = false) :
    issue s i = some s := by
  rw [issue, accept_eq_self (encode_ne_resetWord hi) he, coreTurn_idle hb]
  rfl

/-- In FAULT with nothing in flight, every command up to a RESET is discarded (R261 case 2). -/
theorem issueAll_fault {s : State} {is : List Instr} (hi : .reset ∉ is) (he : s.err = true) (hb : s.busy = false) :
    issueAll s is = some s := by
  induction is with
  | nil => rfl
  | cons i is ih =>
    rw [List.mem_cons, not_or] at hi
    rw [issueAll, issue_fault (Ne.symm hi.1) he hb]
    exact ih hi.2

/-- A run of commands goes on from where its first command ends. -/
theorem issueAll_cons {s t : State} {i : Instr} (h : issue s i = some t) (is : List Instr) :
    issueAll s (i :: is) = issueAll t is := by
  rw [issueAll, h]

/-- A run of commands goes on from where its first part ends. -/
theorem issueAll_append {s t : State} {is : List Instr} (h : issueAll s is = some t) (js : List Instr) :
    issueAll s (is ++ js) = issueAll t js := by
  induction is generalizing s with
  | nil => cases h; rfl
  | cons i is ih =>
    cases hu : issue s i with
    | none => rw [issueAll, hu] at h; cases h
    | some u =>
      rw [issueAll_cons hu] at h
      rw [List.cons_append, issueAll_cons hu, ih h]

/-! ## The counts of a text (R164) -/

/-- s is between commands, with no error and no tree, and its frequency store counts a text (R164). -/
structure CountsText (text : List Byte) (s : State) : Prop where
  err       : s.err = false
  errcode   : s.errcode = none
  busy      : s.busy = false
  treeValid : s.treeValid = false
  freq      : ∀ sym, (s.freqAt sym).toNat = text.count sym
  nsym      : s.nsym.toNat = text.dedup.length
  total     : s.total.toNat = text.length

/-- The order of the symbols does not matter. -/
theorem CountsText.perm {text text' : List Byte} {s : State} (h : CountsText text s) (p : text.Perm text') :
    CountsText text' s where
  err := h.err
  errcode := h.errcode
  busy := h.busy
  treeValid := h.treeValid
  freq sym := (h.freq sym).trans (p.count_eq sym)
  nsym := h.nsym.trans p.dedup.length_eq
  total := h.total.trans p.length_eq

/-- ResetAll leaves the counts of the empty text (R301). -/
theorem countsText_resetAll (s : State) : CountsText [] s.resetAll where
  err := rfl
  errcode := rfl
  busy := rfl
  treeValid := rfl
  freq sym := by rw [freqAt_resetAll]; rfl
  nsym := rfl
  total := rfl

/-- A text has at most 256 distinct symbols. -/
theorem length_dedup_le (text : List Byte) : text.dedup.length ≤ 256 := by
  have hcard : Fintype.card Byte = 256 := FinEnum.card_eq_fintypeCard.symm.trans (FinEnum.card_bitVec 8)
  exact hcard ▸ text.nodup_dedup.length_le_card

/-- The distinct symbols of a text with one symbol more in front. -/
theorem length_dedup_cons (b : Byte) (text : List Byte) :
    (b :: text).dedup.length = text.dedup.length + if text.count b = 0 then 1 else 0 := by
  by_cases hb : b ∈ text
  · rw [List.dedup_cons_of_mem hb, if_neg (List.count_pos_iff.mpr hb).ne', Nat.add_zero]
  · rw [List.dedup_cons_of_notMem hb, if_pos (List.count_eq_zero.mpr hb), List.length_cons]

/-- FREQ_ADD counts one symbol more: none of its three sums wraps while TOTAL has room (R161, R70). -/
theorem issue_freqAdd_counts {text : List Byte} {s : State} (h : CountsText text s) (b : Byte)
    (hroom : text.length < 0xFFFFFFFF) : ∃ t, issue s (.freqAdd b) = some t ∧ CountsText (b :: text) t := by
  have hlen := h.total
  have htotal : s.total ≠ 0xFFFFFFFF#32 := fun hmax => by
    rw [hmax] at hlen
    exact hroom.ne' hlen
  obtain ⟨-, -, -, hadd⟩ := freqAddCountsOne (s.latch (encode (.freqAdd b))) b
  obtain ⟨t, hexec, hfreq, ht⟩ := hadd h.treeValid htotal
  simp only [freqAt_latch] at hfreq ht
  have hcount := h.freq b
  refine ⟨t, by rw [issue_eq_exec (by simp) h.err h.busy, hexec]; rfl, ?_⟩
  constructor
  case err => rw [ht]; exact h.err
  case errcode => rw [ht]; exact h.errcode
  case busy => rw [ht]
  case treeValid => rw [ht]; exact h.treeValid
  case freq =>
    intro sym
    have hcountLe : text.count b ≤ text.length := List.count_le_length
    by_cases hsym : sym = b
    · rw [hfreq, if_pos hsym, hsym, List.count_cons_self]
      bv_omega
    · rw [hfreq, if_neg hsym, List.count_cons_of_ne (Ne.symm hsym)]
      exact h.freq sym
  case nsym =>
    have hnsym : s.nsym.toNat = text.dedup.length := h.nsym
    have hdedup := length_dedup_cons b text
    have hdedupLe := length_dedup_le (b :: text)
    have hstep : t.nsym = if s.freqAt b = 0#32 then s.nsym + 1#9 else s.nsym := by rw [ht]; rfl
    have hzero : s.freqAt b = 0#32 ↔ text.count b = 0 := by rw [← hcount, ← BitVec.toNat_inj]; rfl
    rw [hstep]
    simp only [hzero]
    split_ifs at hdedup ⊢ <;> bv_omega
  case total =>
    have hstep : t.total = s.total + 1#32 := by rw [ht]; rfl
    rw [hstep, List.length_cons]
    bv_omega

/-- FREQ_ADD of one symbol after another, as long as TOTAL has room for all of them (R164). -/
theorem issueAll_freqAdd_counts {seen text : List Byte} {s : State} (h : CountsText seen s)
    (hroom : text.length + seen.length ≤ 0xFFFFFFFF) :
    ∃ t, issueAll s (text.map Instr.freqAdd) = some t ∧ CountsText (text ++ seen) t := by
  induction text generalizing seen s with
  | nil => exact ⟨s, rfl, h⟩
  | cons b text ih =>
    rw [List.length_cons] at hroom
    obtain ⟨u, hu, hcounts⟩ := issue_freqAdd_counts h b (by omega)
    obtain ⟨t, ht, hall⟩ := ih hcounts (by rw [List.length_cons]; omega)
    exact ⟨t, (issueAll_cons hu _).trans ht, hall.perm List.perm_middle⟩

/-- FREQ_ADD with TOTAL at its bound (R161). -/
theorem issue_freqAdd_overflow {text : List Byte} {s : State} (h : CountsText text s) (b : Byte)
    (hfull : text.length = 0xFFFFFFFF) :
    ∃ t, issue s (.freqAdd b) = some t ∧ t.err = true ∧ t.busy = false ∧ t.errcode = some .overflow := by
  have htotal : s.total = 0xFFFFFFFF#32 := BitVec.eq_of_toNat_eq (h.total.trans hfull)
  obtain ⟨-, -, hover, -⟩ := freqAddCountsOne (s.latch (encode (.freqAdd b))) b
  refine ⟨_, by rw [issue_eq_exec (by simp) h.err h.busy, hover h.treeValid htotal]; rfl, rfl, rfl, ?_⟩
  simp [h.errcode]

/-- Settles O22: one FREQ_ADD keeps `CountsText`; the first symbol past 2^32 - 1 raises E_OVERFLOW, and the rest of the text is
discarded in FAULT. -/
theorem freqTextCountsOccurrences : Obligations.FreqTextCountsOccurrences := by
  refine fun s text => ⟨fun hfits => ?counts, fun hlong => ?overflow⟩
  case counts =>
    obtain ⟨t, ht, h⟩ := issueAll_freqAdd_counts (text := text) (countsText_resetAll s) hfits
    rw [List.append_nil] at h
    exact ⟨t, ht, h.err, h.freq, h.nsym, h.total⟩
  case overflow =>
    obtain ⟨counted, b, rest, rfl, hfull⟩ : ∃ counted b rest, text = counted ++ b :: rest ∧ counted.length = 0xFFFFFFFF :=
      ⟨text.take 0xFFFFFFFF, text[0xFFFFFFFF], text.drop (0xFFFFFFFF + 1), by simp, List.length_take_of_le hlong.le⟩
    obtain ⟨t, ht, h⟩ := issueAll_freqAdd_counts (text := counted) (countsText_resetAll s) hfull.le
    rw [List.append_nil] at h
    obtain ⟨u, hu, herr, hbusy, hcode⟩ := issue_freqAdd_overflow h b hfull
    refine ⟨u, ?_, hcode⟩
    calc issueAll s.resetAll ((counted ++ b :: rest).map Instr.freqAdd)
        = issueAll s.resetAll (counted.map Instr.freqAdd ++ .freqAdd b :: rest.map Instr.freqAdd) := by
          rw [List.map_append, List.map_cons]
      _ = issueAll t (.freqAdd b :: rest.map Instr.freqAdd) := issueAll_append ht _
      _ = issueAll u (rest.map Instr.freqAdd) := issueAll_cons hu _
      _ = some u := issueAll_fault (by simp) herr hbusy

end Sys2Proof.Machine

/-! # The tree builder (spec/42_tree_builder.md): leaves (R171), merges (R172), small tables (R173, R174), weights (R175) -/

namespace Sys2Proof.Machine

/-! ## The leaves of a frequency table (R171) -/

/-- The leaves are those of the nonzero counts. -/
theorem mem_leavesFrom {k : Nat} {cs : List Word} {m : Node} :
    m ∈ leavesFrom k cs ↔ ∃ i c, cs[i]? = some c ∧ c ≠ 0#32 ∧ m = leafNode (BitVec.ofNat 8 (k + i)) c := by
  induction cs generalizing k with
  | nil => simp [leavesFrom]
  | cons a cs ih =>
    rw [← Nat.or_exists_add_one]
    by_cases ha : a = 0#32 <;> simp [leavesFrom, ha, ih, Nat.add_assoc, Nat.add_comm 1]

/-- The symbols rise along the leaves. -/
theorem leavesFrom_pairwise {k : Nat} {cs : List Word} (hfit : k + cs.length ≤ 256) :
    (leavesFrom k cs).Pairwise (fun m m' => m.sym.toNat < m'.sym.toNat) := by
  induction cs generalizing k with
  | nil => exact .nil
  | cons a cs ih =>
    rw [List.length_cons] at hfit
    have htail := ih (k := k + 1) (by omega)
    unfold leavesFrom
    split
    · exact htail
    · refine .cons (fun m hm => ?_) htail
      obtain ⟨i, c, hi, -, rfl⟩ := mem_leavesFrom.mp hm
      have hlen : i < cs.length := (List.getElem?_eq_some_iff.mp hi).1
      simp only [leafNode, BitVec.toNat_ofNat]
      omega

theorem leavesFrom_length (k : Nat) (cs : List Word) :
    (leavesFrom k cs).length = cs.countP (fun c => decide (c ≠ 0#32)) := by
  induction cs generalizing k with
  | nil => rfl
  | cons a cs ih => by_cases ha : a = 0#32 <;> simp [leavesFrom, ha, ih]

/-- A count of 0 adds nothing, so the leaves weigh the sum of the counts. -/
theorem leavesFrom_sum (k : Nat) (cs : List Word) :
    ((leavesFrom k cs).map (fun m => m.weight.toNat)).sum = (cs.map BitVec.toNat).sum := by
  induction cs generalizing k with
  | nil => rfl
  | cons a cs ih => by_cases ha : a = 0#32 <;> simp [leavesFrom, leafNode, ha, ih]

theorem leaves_length (f : FreqTable) : (leaves f).length = presentSymbols f := leavesFrom_length 0 f.toList

theorem presentSymbols_le (f : FreqTable) : presentSymbols f ≤ 256 := List.countP_le_length.trans f.length_toList.le

/-- The leaves are those of the present symbols. -/
theorem mem_leaves {s : State} {m : Node} :
    m ∈ leaves s.freq ↔ ∃ sym, s.freqAt sym ≠ 0#32 ∧ m = leafNode sym (s.freqAt sym) := by
  have hat : ∀ sym : Byte, s.freq.toList[sym.toNat]? = some (s.freqAt sym) :=
    fun sym => Table.get?_eq_get s.freq sym.toNat sym.isLt
  rw [leaves, mem_leavesFrom]
  constructor
  · rintro ⟨i, c, hi, hc, rfl⟩
    have hlt : i < 256 := (List.getElem?_eq_some_iff.mp hi).1.trans_eq s.freq.length_toList
    have hsym : s.freqAt (BitVec.ofNat 8 i) = c := by
      have := hat (BitVec.ofNat 8 i)
      rw [BitVec.toNat_ofNat, Nat.mod_eq_of_lt hlt, hi] at this
      exact (Option.some.inj this).symm
    exact ⟨BitVec.ofNat 8 i, hsym ▸ hc, by rw [hsym, Nat.zero_add]⟩
  · rintro ⟨sym, hc, rfl⟩
    exact ⟨sym.toNat, s.freqAt sym, hat sym, hc, by simp⟩

/-! ## The priority collection (R172) -/

theorem queueBefore_iff {a b : QEntry} : queueBefore a b = true ↔
    a.weight.toNat < b.weight.toNat ∨ (a.weight.toNat = b.weight.toNat ∧ a.idx < b.idx) := by
  simp [queueBefore, BitVec.toNat_inj]

theorem popMin_eq_none {q : List QEntry} : popMin q = none ↔ q = [] := by
  cases q with
  | nil => simp [popMin]
  | cons e q =>
    unfold popMin
    split
    · simp
    · split <;> simp

/-- `popMin` takes an entry out and keeps the others. -/
theorem popMin_perm {q rest : List QEntry} {m : QEntry} (h : popMin q = some (m, rest)) : q.Perm (m :: rest) := by
  induction q generalizing m rest with
  | nil => cases h
  | cons e q ih =>
    unfold popMin at h
    split at h
    · next hnone => cases h; exact .refl _
    · next m' rest' hm =>
      split at h
      · cases h; exact .refl _
      · cases h; exact ((ih hm).cons e).trans (.swap ..)

/-- An entry at another index than the one taken out is left. -/
theorem mem_of_popMin {q rest : List QEntry} {m e : QEntry} (h : popMin q = some (m, rest)) (he : e ∈ q)
    (hidx : e.idx ≠ m.idx) : e ∈ rest :=
  List.mem_of_ne_of_mem (fun heq => hidx (congrArg QEntry.idx heq)) ((popMin_perm h).mem_iff.mp he)

/-- No entry left is before the one `popMin` takes out. -/
theorem popMin_least {q rest : List QEntry} {m : QEntry} (h : popMin q = some (m, rest)) :
    ∀ e ∈ rest, ¬ queueBefore e m = true := by
  induction q generalizing m rest with
  | nil => cases h
  | cons e q ih =>
    unfold popMin at h
    split at h
    · next hnone => cases h; simp [popMin_eq_none.mp hnone]
    · next m' rest' hm =>
      have hleast := ih hm
      split at h
      · next hbefore =>
        cases h
        intro x hx
        rw [queueBefore_iff] at hbefore ⊢
        rcases List.mem_cons.mp ((popMin_perm hm).mem_iff.mp hx) with rfl | hx
        · omega
        · have := hleast x hx
          rw [queueBefore_iff] at this
          omega
      · next hafter =>
        cases h
        exact List.forall_mem_cons.mpr ⟨hafter, hleast⟩

theorem queueFrom_idx (k : Nat) (ns : List Node) : (queueFrom k ns).map QEntry.idx = List.range' k ns.length := by
  induction ns generalizing k with
  | nil => rfl
  | cons n ns ih => simp [queueFrom, ih, List.range'_succ]

theorem queueFrom_weight (k : Nat) (ns : List Node) : (queueFrom k ns).map QEntry.weight = ns.map Node.weight := by
  induction ns generalizing k with
  | nil => rfl
  | cons n ns ih => simp [queueFrom, ih]

/-- An entry of the first collection stands for its node. -/
theorem mem_queueFrom {k : Nat} {ns : List Node} {e : QEntry} (h : e ∈ queueFrom k ns) :
    ∃ i m, ns[i]? = some m ∧ e = ⟨m.weight, k + i⟩ := by
  induction ns generalizing k with
  | nil => cases h
  | cons n ns ih =>
    rcases List.mem_cons.mp h with rfl | h
    · exact ⟨0, n, rfl, rfl⟩
    · obtain ⟨i, m, hi, rfl⟩ := ih h
      exact ⟨i + 1, m, hi, by rw [Nat.add_assoc, Nat.add_comm 1]⟩
/-! ## The merge loop (R172) -/

/-- What holds of the nodes and the collection at the start and is kept by every merge holds at the end. -/
theorem mergeLoop_induct {P : List Node → List QEntry → Prop} {fuel : Nat} {nodes : List Node} {q : List QEntry}
    (start : P nodes q)
    (merge : ∀ nodes q a q1 b q2, P nodes q → popMin q = some (a, q1) → popMin q1 = some (b, q2) →
      P (nodes ++ [innerNode a b]) (⟨a.weight + b.weight, nodes.length⟩ :: q2)) :
    P (mergeLoop fuel nodes q).1 (mergeLoop fuel nodes q).2 := by
  induction fuel generalizing nodes q with
  | zero => exact start
  | succ fuel ih =>
    unfold mergeLoop
    split
    · exact start
    · next a q1 ha =>
      split
      · exact start
      · next b q2 hb => exact ih (merge nodes q a q1 b q2 start ha hb)

/-- With a turn for every entry but one the loop ends with at most one entry. -/
theorem mergeLoop_queue_le {fuel : Nat} {nodes : List Node} {q : List QEntry} (h : q.length ≤ fuel + 1) :
    (mergeLoop fuel nodes q).2.length ≤ 1 := by
  induction fuel generalizing nodes q with
  | zero => exact h
  | succ fuel ih =>
    unfold mergeLoop
    split
    · next hq => simp [popMin_eq_none.mp hq]
    · next a q1 ha =>
      have ha := popMin_length ha
      split
      · next hq => simp [ha, popMin_eq_none.mp hq]
      · next b q2 hb =>
        have hb := popMin_length hb
        exact ih (by rw [List.length_cons]; omega)

/-- The leaves stay where they are placed. -/
theorem buildTree_eq_leaves_append (f : FreqTable) : ∃ inner, (buildTree f).1 = leaves f ++ inner := by
  refine mergeLoop_induct (P := fun nodes _ => ∃ inner, nodes = leaves f ++ inner) ⟨[], (List.append_nil _).symm⟩ ?_
  rintro _ q a q1 b q2 ⟨inner, rfl⟩ - -
  exact ⟨inner ++ [innerNode a b], List.append_assoc ..⟩

/-- BUILD of n ≥ 1 symbols makes 2n - 1 nodes and leaves one entry in the collection (R170, R176). -/
theorem buildTree_length {f : FreqTable} (h : 1 ≤ presentSymbols f) :
    (buildTree f).1.length = 2 * presentSymbols f - 1 ∧ ∃ e, (buildTree f).2 = [e] := by
  have hq := queueFrom_length 0 (leaves f)
  obtain ⟨hsum, hleft⟩ := mergeLoop_length (leaves f).length (leaves f) (queueFrom 0 (leaves f))
  have hle := mergeLoop_queue_le (fuel := (leaves f).length) (nodes := leaves f) (q := queueFrom 0 (leaves f)) (by omega)
  rw [hq, leaves_length] at hsum hleft
  rw [leaves_length] at hle
  have hone := hleft (by omega)
  unfold buildTree
  rw [leaves_length]
  exact ⟨by omega, List.length_eq_one_iff.mp (by omega)⟩

/-! ## The nodes in the node table -/

/-- The table holds the nodes of a list, each at its index. -/
def Holds (t : NodeTable) (nodes : List Node) : Prop := ∀ i m, nodes[i]? = some m → nodeAt t (BitVec.ofNat 9 i) = m

theorem Holds.of_append {t : NodeTable} {nodes more : List Node} (h : Holds t (nodes ++ more)) : Holds t nodes :=
  fun i m hi => h i m ((List.getElem?_append_left (List.getElem?_eq_some_iff.mp hi).1).trans hi)

/-- Few enough nodes written from index 0 on are all in the table. -/
theorem holds_writeNodes {nodes : List Node} (hfit : nodes.length ≤ Config.nodeMax) (t : NodeTable) :
    Holds (writeNodes 0 nodes t) nodes := by
  intro i m hi
  have hlt : i < 511 := (List.getElem?_eq_some_iff.mp hi).1.trans_le hfit
  have hget := writeNodes_get? hi (k := 0) (by rw [Nat.zero_add]; exact hlt) t
  rw [Nat.zero_add] at hget
  rw [nodeAt, BitVec.toNat_ofNat, Nat.mod_eq_of_lt (by omega), hget, Option.getD_some]

/-- BUILD without a tree writes the nodes of `buildTree` and sets TREE_VALID (R170). -/
theorem exec_build_eq {s : State} (hv : s.treeValid = false) : exec .build s = .next { s with
    root := rootOf (buildTree s.freq).2, nnodes := BitVec.ofNat 10 (buildTree s.freq).1.length,
    node := writeNodes 0 (buildTree s.freq).1 s.node, treeValid := true, busy := false, done := true } :=
  exec_success (i := .build) (by decide) (by simp [precondition, hv]) rfl

/-- The tree that BUILD leaves in the registers and the node table (R170). -/
theorem exec_build {s : State} (hv : s.treeValid = false) : ∃ t, exec .build s = .next t ∧ t.treeValid = true ∧
    t.root = rootOf (buildTree s.freq).2 ∧ t.nnodes.toNat = (buildTree s.freq).1.length ∧
    Holds t.node (buildTree s.freq).1 := by
  have hfit := buildTree_length_le s.freq
  refine ⟨_, exec_build_eq hv, rfl, rfl, ?_, holds_writeNodes hfit s.node⟩
  rw [BitVec.toNat_ofNat]
  omega

/-! ## What every merge keeps (R172) -/

/-- Node k is internal and weighs the sum of its children, which stand below it and are the two smallest of the collection. -/
structure MergedAt (t : NodeTable) (n k : Nat) : Prop where
  leaf     : (nodeAt t (BitVec.ofNat 9 k)).leaf = false
  sym      : (nodeAt t (BitVec.ofNat 9 k)).sym = 0#8
  weight   : (nodeAt t (BitVec.ofNat 9 k)).weight =
    (nodeAt t (nodeAt t (BitVec.ofNat 9 k)).left).weight + (nodeAt t (nodeAt t (BitVec.ofNat 9 k)).right).weight
  smallest : MergesSmallest t n k

/-- The children of a merged node were collected, so they stand below it. -/
theorem MergedAt.children_lt {t : NodeTable} {n k : Nat} (h : MergedAt t n k) :
    (nodeAt t (BitVec.ofNat 9 k)).left.toNat < k ∧ (nodeAt t (BitVec.ofNat 9 k)).right.toNat < k := by
  obtain ⟨⟨hl, -⟩, ⟨hr, -⟩, -⟩ := h.smallest
  exact ⟨hl, hr⟩

/-- The loop invariant: the collection q of the model is the collection of R172 over the nodes made so far, and every internal
node among them is a merge of the two smallest. -/
structure Merging (t : NodeTable) (n : Nat) (nodes : List Node) (q : List QEntry) : Prop where
  room      : nodes.length + q.length ≤ 512
  leaves_le : n ≤ nodes.length
  weight    : ∀ e ∈ q, (nodeAt t (BitVec.ofNat 9 e.idx)).weight = e.weight
  distinct  : (q.map QEntry.idx).Nodup
  collected : ∀ i, i ∈ q.map QEntry.idx ↔ Collected t n nodes.length i
  merged    : ∀ k, n ≤ k → k < nodes.length → MergedAt t n k

/-- Node k leaves the collection its two children and nothing else. -/
theorem collected_succ_of_lt {t : NodeTable} {n k i : Nat} (hn : n ≤ k) (hi : i < k) :
    Collected t n (k + 1) i ↔ Collected t n k i ∧
      (nodeAt t (BitVec.ofNat 9 k)).left.toNat ≠ i ∧ (nodeAt t (BitVec.ofNat 9 k)).right.toNat ≠ i := by
  constructor
  · rintro ⟨-, h⟩
    exact ⟨⟨hi, fun j hj hk => h j hj (by omega)⟩, h k hn (by omega)⟩
  · rintro ⟨⟨-, h⟩, hk⟩
    refine ⟨by omega, fun j hj hjk => ?_⟩
    rcases Nat.lt_succ_iff_lt_or_eq.mp hjk with hlt | rfl
    · exact h j hj hlt
    · exact hk

/-- The node made last is in the collection: it is no child, since children stand below their parents. -/
theorem collected_last {t : NodeTable} {n k : Nat}
    (h : ∀ j, n ≤ j → j < k + 1 → (nodeAt t (BitVec.ofNat 9 j)).left.toNat < j ∧ (nodeAt t (BitVec.ofNat 9 j)).right.toNat < j) :
    Collected t n (k + 1) k := by
  refine ⟨by omega, fun j hj hk => ?_⟩
  obtain ⟨hl, hr⟩ := h j hj hk
  omega

/-- An entry that is not before another, at another index, stands for a node that is after the other's (R172). -/
theorem nodeBefore_of_not_queueBefore {t : NodeTable} {m e : QEntry}
    (hm : (nodeAt t (BitVec.ofNat 9 m.idx)).weight = m.weight) (he : (nodeAt t (BitVec.ofNat 9 e.idx)).weight = e.weight)
    (hidx : e.idx ≠ m.idx) (h : ¬ queueBefore e m = true) : NodeBefore t m.idx e.idx := by
  rw [queueBefore_iff] at h
  rw [NodeBefore, hm, he, ← BitVec.toNat_inj]
  omega

/-- At the start the collection holds every leaf (R170). -/
theorem merging_leaves {f : FreqTable} {t : NodeTable} (ht : Holds t (leaves f)) :
    Merging t (presentSymbols f) (leaves f) (queueFrom 0 (leaves f)) := by
  have hlen := leaves_length f
  have hn := presentSymbols_le f
  refine ⟨by rw [queueFrom_length]; omega, hlen.ge, fun e he => ?weight, ?distinct, fun i => ?collected,
    fun k hk hlt => by omega⟩
  case weight =>
    obtain ⟨i, m, hi, rfl⟩ := mem_queueFrom he
    rw [Nat.zero_add, ht i m hi]
  case distinct =>
    rw [queueFrom_idx]
    exact List.nodup_range'
  case collected =>
    rw [queueFrom_idx, List.mem_range'_1]
    exact ⟨fun h => ⟨by omega, fun j hj hlt => by omega⟩, fun h => ⟨by omega, by have := h.1; omega⟩⟩

section
variable {t : NodeTable} {n : Nat} {nodes : List Node} {q q1 q2 : List QEntry} {a b : QEntry}

/-- The two entries of a merge and those left are the entries of the collection. -/
theorem popMin_two_perm (ha : popMin q = some (a, q1)) (hb : popMin q1 = some (b, q2)) : q.Perm (a :: b :: q2) :=
  (popMin_perm ha).trans ((popMin_perm hb).cons a)

/-- The two entries of a merge are distinct entries of the collection, for nodes made before; and the node table has room for
one more node (R178). -/
theorem Merging.pair (h : Merging t n nodes q) (ha : popMin q = some (a, q1)) (hb : popMin q1 = some (b, q2)) :
    a ∈ q ∧ b ∈ q ∧ a.idx ≠ b.idx ∧ a.idx < nodes.length ∧ b.idx < nodes.length ∧ nodes.length < 511 := by
  have hq := popMin_two_perm ha hb
  have hqa : a ∈ q := hq.mem_iff.mpr (by simp)
  have hqb : b ∈ q := hq.mem_iff.mpr (by simp)
  have hidx := (hq.map QEntry.idx).nodup_iff.mp h.distinct
  have hne : a.idx ≠ b.idx := (List.nodup_cons.mp hidx).1 ∘ fun heq => by simp [heq]
  obtain ⟨hlta, -⟩ := (h.collected a.idx).mp (List.mem_map_of_mem hqa)
  obtain ⟨hltb, -⟩ := (h.collected b.idx).mp (List.mem_map_of_mem hqb)
  have hroom := h.room
  rw [hq.length_eq, List.length_cons, List.length_cons] at hroom
  exact ⟨hqa, hqb, hne, hlta, hltb, by omega⟩

/-- The node made of the two entries is what the table holds at the next index. -/
theorem Holds.nodeAt_last {m : Node} (ht : Holds t (nodes ++ [m])) : nodeAt t (BitVec.ofNat 9 nodes.length) = m :=
  ht _ _ (by simp)

theorem toNat_ofNat_idx {i : Nat} (h : i < 511) : (BitVec.ofNat 9 i).toNat = i := by
  rw [BitVec.toNat_ofNat]
  omega

/-- A merge takes the two smallest entries of the collection (R172). -/
theorem Merging.mergedAt (h : Merging t n nodes q) (ha : popMin q = some (a, q1)) (hb : popMin q1 = some (b, q2))
    (ht : Holds t (nodes ++ [innerNode a b])) : MergedAt t n nodes.length := by
  obtain ⟨hqa, hqb, hne, hlta, hltb, hlt⟩ := h.pair ha hb
  have hnode := ht.nodeAt_last
  refine ⟨by rw [hnode]; rfl, by rw [hnode]; rfl, ?weight, ?smallest⟩
  case weight =>
    rw [hnode]
    exact (congrArg₂ (· + ·) (h.weight a hqa) (h.weight b hqb)).symm
  case smallest =>
    unfold MergesSmallest
    rw [hnode]
    simp only [innerNode, toNat_ofNat_idx (hlta.trans hlt), toNat_ofNat_idx (hltb.trans hlt)]
    refine ⟨(h.collected _).mp (List.mem_map_of_mem hqa), (h.collected _).mp (List.mem_map_of_mem hqb), hne,
      fun i hi hia => ?_, fun i hi hia hib => ?_⟩
    · obtain ⟨e, he, rfl⟩ := List.mem_map.mp ((h.collected i).mpr hi)
      have hleast := popMin_least ha e (mem_of_popMin ha he hia)
      exact nodeBefore_of_not_queueBefore (h.weight a hqa) (h.weight e he) hia hleast
    · obtain ⟨e, he, rfl⟩ := List.mem_map.mp ((h.collected i).mpr hi)
      have hleast := popMin_least hb e (mem_of_popMin hb (mem_of_popMin ha he hia) hib)
      exact nodeBefore_of_not_queueBefore (h.weight b hqb) (h.weight e he) hib hleast

/-- The collection after a merge: the two entries are gone and the new node is in (R172). -/
theorem Merging.collected_merge (h : Merging t n nodes q) (ha : popMin q = some (a, q1)) (hb : popMin q1 = some (b, q2))
    (ht : Holds t (nodes ++ [innerNode a b])) (i : Nat) :
    (i = nodes.length ∨ i ∈ q2.map QEntry.idx) ↔ Collected t n (nodes.length + 1) i := by
  obtain ⟨-, -, -, hlta, hltb, hlt⟩ := h.pair ha hb
  have hperm := (popMin_two_perm ha hb).map QEntry.idx
  have hidx := hperm.nodup_iff.mp h.distinct
  simp only [List.map_cons, List.nodup_cons, List.mem_cons, not_or] at hidx
  obtain ⟨⟨-, ha2⟩, hb2, -⟩ := hidx
  have hmem : i ∈ q2.map QEntry.idx ↔ Collected t n nodes.length i ∧ a.idx ≠ i ∧ b.idx ≠ i := by
    rw [← h.collected, hperm.mem_iff]
    grind
  rcases lt_trichotomy i nodes.length with hi | rfl | hi
  · rw [collected_succ_of_lt h.leaves_le hi, ht.nodeAt_last, hmem]
    simp only [innerNode, toNat_ofNat_idx (hlta.trans hlt), toNat_ofNat_idx (hltb.trans hlt)]
    exact or_iff_right hi.ne
  · refine iff_of_true (.inl rfl) (collected_last fun j hj hk => ?_)
    rcases Nat.lt_succ_iff_lt_or_eq.mp hk with hk | rfl
    · exact (h.merged j hj hk).children_lt
    · exact (h.mergedAt ha hb ht).children_lt
  · refine iff_of_false ?_ fun hc => by have := hc.1; omega
    rw [hmem]
    rintro (rfl | ⟨⟨hc, -⟩, -⟩) <;> omega

/-- A merge keeps the loop invariant. -/
theorem Merging.merge (h : Merging t n nodes q) (ha : popMin q = some (a, q1)) (hb : popMin q1 = some (b, q2))
    (ht : Holds t (nodes ++ [innerNode a b])) :
    Merging t n (nodes ++ [innerNode a b]) (⟨a.weight + b.weight, nodes.length⟩ :: q2) := by
  have hperm := popMin_two_perm ha hb
  have hlen : (nodes ++ [innerNode a b]).length = nodes.length + 1 := by simp
  have hidx := (hperm.map QEntry.idx).nodup_iff.mp h.distinct
  have hroom := h.room
  have hle := h.leaves_le
  refine ⟨?room, by omega, ?weight, ?distinct, fun i => ?collected, fun k hk hlt => ?merged⟩
  case room =>
    rw [hperm.length_eq] at hroom
    simp only [List.length_cons] at hroom ⊢
    omega
  case weight =>
    refine List.forall_mem_cons.mpr ⟨by rw [ht.nodeAt_last]; rfl, fun e he => h.weight e (hperm.mem_iff.mpr ?_)⟩
    exact List.mem_cons_of_mem a (List.mem_cons_of_mem b he)
  case distinct =>
    refine List.nodup_cons.mpr ⟨fun hmem => ?_, hidx.of_cons.of_cons⟩
    obtain ⟨hlt, -⟩ := (h.collected _).mp ((hperm.map QEntry.idx).mem_iff.mpr
      (List.mem_cons_of_mem _ (List.mem_cons_of_mem _ hmem)))
    exact absurd hlt (Nat.lt_irrefl _)
  case collected =>
    rw [hlen, List.map_cons, List.mem_cons]
    exact h.collected_merge ha hb ht i
  case merged =>
    rw [hlen] at hlt
    rcases Nat.lt_succ_iff_lt_or_eq.mp hlt with hlt | rfl
    · exact h.merged k hk hlt
    · exact h.mergedAt ha hb ht

end

/-- The invariant at the end of the loop, over any table that holds the nodes made. -/
theorem buildTree_merging {f : FreqTable} {t : NodeTable} (ht : Holds t (buildTree f).1) :
    Merging t (presentSymbols f) (buildTree f).1 (buildTree f).2 := by
  refine mergeLoop_induct (P := fun nodes q => Holds t nodes → Merging t (presentSymbols f) nodes q) merging_leaves ?_ ht
  exact fun nodes q a q1 b q2 ih ha hb ht => (ih ht.of_append).merge ha hb ht

/-- ROOT is the last node made (R170). -/
theorem rootOf_buildTree {f : FreqTable} {t : NodeTable} (h : 1 ≤ presentSymbols f) (ht : Holds t (buildTree f).1) :
    ∃ e, (buildTree f).2 = [e] ∧ e.idx + 1 = (buildTree f).1.length := by
  obtain ⟨hlen, e, he⟩ := buildTree_length h
  obtain ⟨k, hk⟩ : ∃ k, (buildTree f).1.length = k + 1 := ⟨2 * presentSymbols f - 2, by omega⟩
  have hinv := buildTree_merging ht
  have hlast : k ∈ (buildTree f).2.map QEntry.idx := by
    rw [hinv.collected, hk]
    exact collected_last fun j hj hlt => (hinv.merged j hj (hk ▸ hlt)).children_lt
  rw [he, List.map_singleton, List.mem_singleton] at hlast
  exact ⟨e, he, by omega⟩
/-- What BUILD makes of one symbol or more: the tree of the loop, with ROOT its last node (R170). -/
theorem exec_build_tree {s : State} (hv : s.treeValid = false) (h : 1 ≤ presentSymbols s.freq) :
    ∃ t, exec .build s = .next t ∧ t.treeValid = true ∧ t.nnodes.toNat = 2 * presentSymbols s.freq - 1 ∧
      t.root.toNat + 1 = t.nnodes.toNat ∧ ∀ k, presentSymbols s.freq ≤ k → k < t.nnodes.toNat →
        MergedAt t.node (presentSymbols s.freq) k := by
  obtain ⟨t, hexec, hvalid, hroot, hnnodes, hholds⟩ := exec_build hv
  obtain ⟨e, he, hidx⟩ := rootOf_buildTree h hholds
  have hlen := (buildTree_length h).1
  have hn := presentSymbols_le s.freq
  have hrootNat : t.root.toNat = e.idx := by
    rw [hroot, he]
    exact toNat_ofNat_idx (by omega)
  exact ⟨t, hexec, hvalid, hnnodes.trans hlen, by omega,
    fun k hk hlt => (buildTree_merging hholds).merged k hk (hnnodes ▸ hlt)⟩

/-! ## Leaves, merges and small tables (R171-R174) -/

/-- Settles O24: the leaves are the first nodes that BUILD writes, and they are in symbol order. -/
theorem buildPlacesLeavesInOrder : Obligations.BuildPlacesLeavesInOrder := by
  intro s hv
  obtain ⟨t, hexec, hvalid, -, -, hholds⟩ := exec_build hv
  obtain ⟨inner, htree⟩ := buildTree_eq_leaves_append s.freq
  have hleaf : Holds t.node (leaves s.freq) := (htree ▸ hholds).of_append
  have hat : ∀ k (hk : k < (leaves s.freq).length), t.nodeAt (BitVec.ofNat 9 k) = (leaves s.freq)[k] :=
    fun k hk => hleaf k _ (List.getElem?_eq_getElem hk)
  rw [← leaves_length]
  refine ⟨t, hexec, hvalid, fun k hk => ?leaf, fun k k' hlt hk' => ?order, fun sym hsym => ?present⟩
  case leaf =>
    obtain ⟨sym, hsym, heq⟩ := mem_leaves.mp (List.getElem_mem hk)
    exact ⟨sym, hsym, (hat k hk).trans heq⟩
  case order =>
    rw [hat k (hlt.trans hk'), hat k' hk']
    exact List.pairwise_iff_getElem.mp (leavesFrom_pairwise ((Nat.zero_add _).trans s.freq.length_toList).le) k k' _ hk' hlt
  case present =>
    obtain ⟨k, hk, heq⟩ := List.getElem_of_mem (mem_leaves.mpr ⟨sym, hsym, rfl⟩)
    exact ⟨k, hk, by rw [hat k hk, heq]; rfl⟩

/-- Settles O25: the invariant of the merge loop holds of the tree BUILD writes. -/
theorem buildMergesTheTwoSmallest : Obligations.BuildMergesTheTwoSmallest := by
  intro s hv h
  obtain ⟨t, hexec, hvalid, hnnodes, hroot, hmerged⟩ := exec_build_tree hv (by omega)
  refine ⟨t, hexec, hvalid, hnnodes, hroot, fun k hk hlt => ?_⟩
  have hm := hmerged k hk hlt
  exact ⟨hm.leaf, hm.sym, hm.children_lt.1, hm.children_lt.2, hm.weight, hm.smallest⟩

/-- Settles O26: no leaves make no nodes; one leaf is the whole tree. -/
theorem buildOfOneOrNoSymbol : Obligations.BuildOfOneOrNoSymbol := by
  refine fun s hv => ⟨fun hnone => ?none, fun hone => ?one⟩
  case none =>
    have hleaves : leaves s.freq = [] := List.eq_nil_of_length_eq_zero ((leaves_length s.freq).trans hnone)
    have htree : buildTree s.freq = ([], []) := by rw [buildTree, hleaves]; rfl
    rw [exec_build_eq hv, htree]
    rfl
  case one =>
    obtain ⟨t, hexec, hvalid, hnnodes, hroot, -⟩ := exec_build_tree hv hone.ge
    obtain ⟨t', hexec', -, hleaf, -⟩ := buildPlacesLeavesInOrder s hv
    cases hexec.symm.trans hexec'
    obtain ⟨sym, hsym, hnode⟩ := hleaf 0 (by omega)
    rw [hone] at hnnodes
    exact ⟨t, sym, hexec, hvalid, hsym, BitVec.eq_of_toNat_eq (by simp; omega), BitVec.eq_of_toNat_eq hnnodes, hnode⟩

/-! ## Weights (R175) -/

/-- The weights of the collection add up to `total`, and no internal node made so far wraps. -/
structure ExactWeights (t : NodeTable) (n total : Nat) (nodes : List Node) (q : List QEntry) : Prop where
  sum   : (q.map fun e => e.weight.toNat).sum = total
  exact : ∀ k, n ≤ k → k < nodes.length → (nodeAt t (BitVec.ofNat 9 k)).weight.toNat =
    (nodeAt t (nodeAt t (BitVec.ofNat 9 k)).left).weight.toNat +
    (nodeAt t (nodeAt t (BitVec.ofNat 9 k)).right).weight.toNat

/-- At the start the collection weighs the sum of the counts. -/
theorem exactWeights_leaves (f : FreqTable) (t : NodeTable) :
    ExactWeights t (presentSymbols f) (sumOfCounts f) (leaves f) (queueFrom 0 (leaves f)) where
  sum := by
    have hweight := congrArg (List.map BitVec.toNat) (queueFrom_weight 0 (leaves f))
    rw [List.map_map, List.map_map] at hweight
    exact (congrArg List.sum hweight).trans (leavesFrom_sum 0 f.toList)
  exact k hk hlt := by
    have := leaves_length f
    omega

/-- A merge keeps the sum, so the weight of the new node is at most `total` and fits its word. -/
theorem ExactWeights.merge {t : NodeTable} {n total : Nat} {nodes : List Node} {q q1 q2 : List QEntry} {a b : QEntry}
    (h : ExactWeights t n total nodes q) (hinv : Merging t n nodes q) (hfits : total < 2 ^ 32)
    (ha : popMin q = some (a, q1)) (hb : popMin q1 = some (b, q2)) (ht : Holds t (nodes ++ [innerNode a b])) :
    ExactWeights t n total (nodes ++ [innerNode a b]) (⟨a.weight + b.weight, nodes.length⟩ :: q2) := by
  obtain ⟨hqa, hqb, -⟩ := hinv.pair ha hb
  have hsum := h.sum
  rw [((popMin_two_perm ha hb).map fun e => e.weight.toNat).sum_eq] at hsum
  simp only [List.map_cons, List.sum_cons] at hsum
  have hadd : (a.weight + b.weight).toNat = a.weight.toNat + b.weight.toNat := BitVec.toNat_add_of_lt (by omega)
  refine ⟨by simp only [List.map_cons, List.sum_cons]; omega, fun k hk hlt => ?_⟩
  rw [List.length_append, List.length_singleton] at hlt
  rcases Nat.lt_succ_iff_lt_or_eq.mp hlt with hlt | rfl
  · exact h.exact k hk hlt
  · rw [ht.nodeAt_last]
    simp only [innerNode, hinv.weight a hqa, hinv.weight b hqb, hadd]

/-- With counts whose sum fits a word, the invariant on weights holds at the end of the loop. -/
theorem buildTree_exactWeights {f : FreqTable} {t : NodeTable} (hfits : sumOfCounts f < 2 ^ 32)
    (ht : Holds t (buildTree f).1) :
    ExactWeights t (presentSymbols f) (sumOfCounts f) (buildTree f).1 (buildTree f).2 := by
  refine (mergeLoop_induct (P := fun nodes q => Holds t nodes →
    Merging t (presentSymbols f) nodes q ∧ ExactWeights t (presentSymbols f) (sumOfCounts f) nodes q) ?start ?merge ht).2
  case start =>
    exact fun ht => ⟨merging_leaves ht, exactWeights_leaves f t⟩
  case merge =>
    intro nodes q a q1 b q2 ih ha hb ht
    obtain ⟨hinv, hexact⟩ := ih ht.of_append
    exact ⟨hinv.merge ha hb ht, hexact.merge hinv hfits ha hb ht⟩

/-- Settles O27: TOTAL is the sum of the counts and fits its word, so the weights are exact and the last entry of the
collection weighs TOTAL. -/
theorem weightsNeverWrap : Obligations.WeightsNeverWrap := by
  rintro s t ⟨-, htotal⟩ hv h hexec
  obtain ⟨t', hexec', -, hroot, hnnodes, hholds⟩ := exec_build hv
  cases hexec.symm.trans hexec'
  have hexact := buildTree_exactWeights (htotal ▸ s.total.isLt) hholds
  obtain ⟨-, e, he⟩ := buildTree_length h
  have hsum := hexact.sum
  rw [he, List.map_singleton, List.sum_singleton, ← htotal] at hsum
  refine ⟨?root, fun k hk hlt => hexact.exact k hk (hnnodes ▸ hlt)⟩
  case root =>
    calc (t.nodeAt t.root).weight
        = (nodeAt t.node (BitVec.ofNat 9 e.idx)).weight := by rw [hroot, he]; rfl
      _ = e.weight := (buildTree_merging hholds).weight e (by simp [he])
      _ = s.total := BitVec.eq_of_toNat_eq hsum

end Sys2Proof.Machine

/-! # The code-table generator (spec/43_code_generator.md): GEN's walk (R190, R191, R194), small trees (R192, R193) and the
codes of a tree (R195) -/

namespace Sys2Proof.Machine

/-! ## Paths in the tree (R191) -/

/-- A path that goes on has left no leaf behind, so no path to a leaf begins another one. -/
theorem LeafPath.eq_of_prefix {t : NodeTable} {i : NodeIdx} {p q : List Bool} (hp : LeafPath t i p) (hq : LeafPath t i q)
    (h : p <+: q) : p = q := by
  induction p generalizing i q with
  | nil =>
    cases q with
    | nil => rfl
    | cons b q =>
      have hleaf : (nodeAt t i).leaf = true := hp
      exact absurd (hleaf.symm.trans hq.1) (by decide)
  | cons b p ih =>
    cases q with
    | nil => exact absurd h (by simp)
    | cons a q =>
      obtain ⟨rfl, hpre⟩ := List.cons_prefix_cons.mp h
      rw [ih hp.2 hq.2 hpre]

/-- The paths from an internal node go on from one of its children. -/
theorem leafPath_of_inner {t : NodeTable} {i : NodeIdx} {p : List Bool} (hi : (nodeAt t i).leaf = false)
    (h : LeafPath t i p) : ∃ b q, p = b :: q ∧ LeafPath t (childOf (nodeAt t i) b) q := by
  cases p with
  | nil =>
    have hleaf : (nodeAt t i).leaf = true := h
    exact absurd (hleaf.symm.trans hi) (by decide)
  | cons b q => exact ⟨b, q, rfl, h.2⟩

/-- The only path from a leaf is the empty one. -/
theorem leafPath_of_leaf {t : NodeTable} {i : NodeIdx} {p : List Bool} (hi : (nodeAt t i).leaf = true)
    (h : LeafPath t i p) : p = [] :=
  (LeafPath.eq_of_prefix (p := []) hi h p.nil_prefix).symm

/-! ## A path as a code table entry (R54, R191) -/

/-- The branch bits of a path as a number, the first step on top: what `walk` adds up (R190). -/
def pathNumber (p : List Bool) : Nat := p.foldl (fun v b => Nat.bit b v) 0

/-- The entry whose code is a path (R191). -/
def pathEntry (p : List Bool) : CodeEntry := ⟨true, BitVec.ofNat 8 p.length, BitVec.ofNat 64 (pathNumber p)⟩

theorem pathNumber_concat (p : List Bool) (b : Bool) : pathNumber (p ++ [b]) = Nat.bit b (pathNumber p) := by
  simp [pathNumber]

theorem pathNumber_lt (p : List Bool) : pathNumber p < 2 ^ p.length := by
  induction p using List.reverseRecOn with
  | nil => decide
  | append_singleton p b ih =>
    rw [pathNumber_concat, List.length_append, List.length_singleton, Nat.bit_lt_two_pow_succ_iff]
    exact ih

/-- The bits of a path's number, highest first, are the path. -/
theorem testBit_pathNumber (p : List Bool) : (List.range p.length).reverse.map (pathNumber p).testBit = p := by
  induction p using List.reverseRecOn with
  | nil => rfl
  | append_singleton p b ih =>
    have hshift : (Nat.bit b (pathNumber p)).testBit ∘ Nat.succ = (pathNumber p).testBit :=
      funext fun j => Nat.testBit_bit_succ j b (pathNumber p)
    rw [pathNumber_concat, List.length_append, List.length_singleton, List.range_succ_eq_map, List.reverse_cons,
      List.map_append, ← List.map_reverse, List.map_map, hshift, ih, List.map_singleton, Nat.testBit_bit_zero]

section
variable {p : List Bool} (hp : p.length ≤ Config.codeStore)
include hp

theorem pathEntry_len : (pathEntry p).len.toNat = p.length :=
  Nat.mod_eq_of_lt (hp.trans_lt (by decide))

/-- An entry made of a path that fits CODE_STORE holds that path (R191). -/
theorem codeString_pathEntry : codeString (pathEntry p) = p := by
  have hbit : ∀ j ∈ (List.range p.length).reverse, codeBit (pathEntry p) j = (pathNumber p).testBit j := by
    intro j hj
    have hlt : j < 64 := (List.mem_range.mp (List.mem_reverse.mp hj)).trans_le hp
    rw [codeBit, pathEntry, BitVec.getLsbD_ofNat, decide_eq_true hlt, Bool.true_and]
  rw [codeString, pathEntry_len hp, List.map_congr_left hbit, testBit_pathNumber]

/-- BITS above LEN are 0 (R191). -/
theorem pathEntry_bits_lt : (pathEntry p).bits.toNat < 2 ^ (pathEntry p).len.toNat := by
  rw [pathEntry_len hp]
  exact (Nat.mod_le _ _).trans_lt (pathNumber_lt p)

end

/-! ## The code table being built (R190, R198) -/

/-- The entry of a symbol in a code table. -/
def entryOf (c : CodeTable) (sym : Byte) : CodeEntry := c.get sym.toNat sym.isLt

theorem State.codeAt_eq_entryOf (s : State) (sym : Byte) : s.codeAt sym = entryOf s.code sym := rfl

theorem entryOf_setCode (c : CodeTable) (sym b : Byte) (e : CodeEntry) :
    entryOf (setCode c sym e) b = if b = sym then e else entryOf c b := by
  simp only [eq_comm (a := b)]
  exact get_setCode c sym b e

@[simp] theorem entryOf_freshCodes (sym : Byte) : entryOf freshCodes sym = CodeEntry.blank :=
  Table.get_replicate CodeEntry.blank sym.toNat sym.isLt

/-! ## The walk (R190, R194) -/

section
variable {t : NodeTable} {fuel : Nat} {i : NodeIdx} {len v : Nat}

/-- A leaf within CODE_STORE is written. -/
theorem walk_leaf (hi : (nodeAt t i).leaf = true) (hlen : len ≤ Config.codeStore) (c : CodeTable) (m : Nat) :
    walk t (fuel + 1) i len v (c, m) =
      .ok (setCode c (nodeAt t i).sym ⟨true, BitVec.ofNat 8 len, BitVec.ofNat 64 v⟩, max m len) := by
  rw [walk, if_pos hi, if_neg (by omega)]

/-- An internal node: the left subtree, then the right one, whose numbers end in 0 and 1. -/
theorem walk_inner (hi : (nodeAt t i).leaf = false) (cm : CodeTable × Nat) :
    walk t (fuel + 1) i len v cm = (walk t fuel (childOf (nodeAt t i) false) (len + 1) (Nat.bit false v) cm).bind
      (walk t fuel (childOf (nodeAt t i) true) (len + 1) (Nat.bit true v)) := by
  rw [walk, if_neg (by simp [hi])]
  change _ = (walk t fuel (nodeAt t i).left (len + 1) (2 * v) cm).bind _
  cases walk t fuel (nodeAt t i).left (len + 1) (2 * v) cm <;> rfl

/-- Below CODE_STORE every walk is E_CODELEN (R194, log entry 10). -/
theorem walk_too_deep (hlen : Config.codeStore < len) (cm : CodeTable × Nat) :
    walk t fuel i len v cm = .error .codelen := by
  induction fuel generalizing i len v cm with
  | zero => rfl
  | succ fuel ih =>
    cases hi : (nodeAt t i).leaf with
    | true => rw [walk, if_pos hi, if_pos hlen]
    | false => rw [walk_inner hi, ih (by omega)]; rfl

/-- With d levels left above CODE_STORE, a walk succeeds over a subtree of depth at most d and is E_CODELEN over a deeper
one. -/
theorem walk_ok_or_codelen {d : Nat} (hlen : len + d = Config.codeStore) (cm : CodeTable × Nat) :
    (shallow t d i = true → ∃ r, walk t (d + 2) i len v cm = .ok r) ∧
    (shallow t d i = false → walk t (d + 2) i len v cm = .error .codelen) := by
  induction d generalizing i len v cm with
  | zero =>
    cases hi : (nodeAt t i).leaf with
    | true => exact ⟨fun _ => ⟨_, walk_leaf hi (by omega) cm.1 cm.2⟩, fun h => by simp [shallow, hi] at h⟩
    | false =>
      refine ⟨fun h => by simp [shallow, hi] at h, fun _ => ?_⟩
      rw [walk_inner hi, walk_too_deep (by omega)]
      rfl
  | succ d ih =>
    cases hi : (nodeAt t i).leaf with
    | true => exact ⟨fun _ => ⟨_, walk_leaf hi (by omega) cm.1 cm.2⟩, fun h => by simp [shallow, hi] at h⟩
    | false =>
      have hshallow : shallow t (d + 1) i =
          (shallow t d (childOf (nodeAt t i) false) && shallow t d (childOf (nodeAt t i) true)) := by
        simp [shallow, hi, childOf]
      rw [walk_inner hi, hshallow]
      obtain ⟨hleft, hdeep⟩ := ih (i := childOf (nodeAt t i) false) (len := len + 1) (v := Nat.bit false v) (by omega) cm
      cases hl : shallow t d (childOf (nodeAt t i) false) with
      | true =>
        obtain ⟨r, hr⟩ := hleft hl
        rw [hr, Bool.true_and]
        exact ih (by omega) r
      | false =>
        rw [hdeep hl]
        exact ⟨nofun, fun _ => rfl⟩

end

/-- What a walk from node i, which the path `pre` leads to, makes of a code table c and a longest length m: the codes are the
paths to the leaves below i, with `pre` in front. -/
structure Walked (t : NodeTable) (i : NodeIdx) (pre : List Bool) (c : CodeTable) (m : Nat) (c' : CodeTable) (m' : Nat) :
    Prop where
  entry   : ∀ sym, entryOf c' sym = entryOf c sym ∨ ∃ p, LeafPath t i p ∧ (nodeAt t (followPath t i p)).sym = sym ∧
    (pre ++ p).length ≤ Config.codeStore ∧ entryOf c' sym = pathEntry (pre ++ p)
  covered : ∀ p, LeafPath t i p → (entryOf c' (nodeAt t (followPath t i p)).sym).valid = true ∧ (pre ++ p).length ≤ m'
  longest : ∃ p, LeafPath t i p ∧ m' = max m (pre ++ p).length

/-- A walk takes no code away. -/
theorem Walked.valid {t : NodeTable} {i : NodeIdx} {pre : List Bool} {c c' : CodeTable} {m m' : Nat}
    (h : Walked t i pre c m c' m') {sym : Byte} (hv : (entryOf c sym).valid = true) : (entryOf c' sym).valid = true := by
  rcases h.entry sym with heq | ⟨p, -, -, -, heq⟩ <;> rw [heq]
  · exact hv
  · rfl

/-- A walk at a leaf gives its symbol the path that leads there. -/
theorem walked_leaf {t : NodeTable} {i : NodeIdx} {pre : List Bool} (hi : (nodeAt t i).leaf = true)
    (hlen : pre.length ≤ Config.codeStore) (c : CodeTable) (m : Nat) :
    Walked t i pre c m (setCode c (nodeAt t i).sym (pathEntry pre)) (max m pre.length) where
  entry sym := by
    rw [entryOf_setCode]
    split
    · next heq => exact .inr ⟨[], hi, heq.symm, by simpa using hlen, by simp⟩
    · exact .inl rfl
  covered p hp := by
    rw [leafPath_of_leaf hi hp, List.append_nil]
    exact ⟨by simp [followPath, entryOf_setCode, pathEntry], le_max_right m _⟩
  longest := ⟨[], hi, by simp⟩

/-- A walk at an internal node is the walks from its two children, one after the other. -/
theorem Walked.inner {t : NodeTable} {i : NodeIdx} {pre : List Bool} {c c1 c2 : CodeTable} {m m1 m2 : Nat}
    (hi : (nodeAt t i).leaf = false) (hl : Walked t (childOf (nodeAt t i) false) (pre ++ [false]) c m c1 m1)
    (hr : Walked t (childOf (nodeAt t i) true) (pre ++ [true]) c1 m1 c2 m2) : Walked t i pre c m c2 m2 where
  entry sym := by
    rcases hr.entry sym with heq | ⟨p, hp, hsym, hlen, heq⟩
    · rw [heq]
      rcases hl.entry sym with heq | ⟨p, hp, hsym, hlen, heq⟩
      · exact .inl heq
      · exact .inr ⟨false :: p, ⟨hi, hp⟩, hsym, by simpa using hlen, by simpa using heq⟩
    · exact .inr ⟨true :: p, ⟨hi, hp⟩, hsym, by simpa using hlen, by simpa using heq⟩
  covered p hp := by
    obtain ⟨b, q, rfl, hq⟩ := leafPath_of_inner hi hp
    rw [List.append_cons]
    cases b with
    | true => exact hr.covered q hq
    | false =>
      obtain ⟨hv, hlen⟩ := hl.covered q hq
      obtain ⟨_, -, hm⟩ := hr.longest
      exact ⟨hr.valid hv, hlen.trans (hm ▸ le_max_left _ _)⟩
  longest := by
    obtain ⟨p, hp, hm1⟩ := hl.longest
    obtain ⟨q, hq, hm2⟩ := hr.longest
    rcases le_total (pre ++ [false] ++ p).length (pre ++ [true] ++ q).length with hle | hle
    · exact ⟨true :: q, ⟨hi, hq⟩, by rw [List.append_cons]; omega⟩
    · exact ⟨false :: p, ⟨hi, hp⟩, by rw [List.append_cons]; omega⟩

/-- Both parts of a computation that succeeds have succeeded. -/
theorem except_bind_ok {ε α β : Type} {x : Except ε α} {f : α → Except ε β} {r : β} (h : x.bind f = .ok r) :
    ∃ a, x = .ok a ∧ f a = .ok r := by
  cases x with
  | error e => cases h
  | ok a => exact ⟨a, rfl, h⟩

/-- What a walk that succeeds has done. -/
theorem walk_walked {t : NodeTable} {fuel : Nat} {i : NodeIdx} {pre : List Bool} {c c' : CodeTable} {m m' : Nat}
    (h : walk t fuel i pre.length (pathNumber pre) (c, m) = .ok (c', m')) : Walked t i pre c m c' m' := by
  induction fuel generalizing i pre c m c' m' with
  | zero => cases h
  | succ fuel ih =>
    rcases Nat.lt_or_ge Config.codeStore pre.length with hdeep | hlen
    · rw [walk_too_deep hdeep] at h
      cases h
    cases hi : (nodeAt t i).leaf with
    | true =>
      rw [walk_leaf hi hlen] at h
      cases h
      exact walked_leaf hi hlen c m
    | false =>
      rw [walk_inner hi] at h
      obtain ⟨⟨c1, m1⟩, hleft, hright⟩ := except_bind_ok h
      exact (ih (by simpa [pathNumber_concat] using hleft)).inner hi (ih (by simpa [pathNumber_concat] using hright))

/-! ## The codes GEN makes of a tree (R190-R193) -/

/-- The walk GEN makes over a root that is an internal node (R190). -/
theorem genCodes_inner {s : State} (hroot : s.root ≠ NIL) (hi : (s.nodeAt s.root).leaf = false) :
    genCodes s = walk s.node (Config.codeStore + 2) s.root 0 0 (freshCodes, 0) := by
  rw [genCodes, if_neg hroot, if_neg (by simp [hi])]
  rfl

/-- A root that is a leaf (R192). -/
theorem genCodes_leaf {s : State} (hroot : s.root ≠ NIL) (hi : (s.nodeAt s.root).leaf = true) :
    genCodes s = .ok (setCode freshCodes (s.nodeAt s.root).sym (pathEntry [false]), 1) := by
  rw [genCodes, if_neg hroot, if_pos hi]
  rfl

/-- The empty tree (R193). -/
theorem genCodes_empty {s : State} (hroot : s.root = NIL) : genCodes s = .ok (freshCodes, 0) := if_pos hroot

/-- The code the tree gives when ROOT is a leaf (R192). -/
theorem codeOf_iff_of_leaf {s : State} {sym : Byte} {p : List Bool} (hroot : s.root ≠ NIL)
    (hi : (s.nodeAt s.root).leaf = true) : CodeOf s sym p ↔ p = [false] ∧ (s.nodeAt s.root).sym = sym := by
  rw [CodeOf, if_pos hi]
  exact and_iff_right hroot

/-- The codes the tree gives when ROOT is an internal node (R191). -/
theorem codeOf_iff_of_inner {s : State} {sym : Byte} {p : List Bool} (hroot : s.root ≠ NIL)
    (hi : (s.nodeAt s.root).leaf = false) :
    CodeOf s sym p ↔ LeafPath s.node s.root p ∧ (s.nodeAt (followPath s.node s.root p)).sym = sym := by
  rw [CodeOf, if_neg (by simp [hi])]
  exact and_iff_right hroot

/-- The code of a symbol is never empty (R191, R192). -/
theorem CodeOf.length_pos {s : State} {sym : Byte} {p : List Bool} (h : CodeOf s sym p) : 1 ≤ p.length := by
  cases hi : (s.nodeAt s.root).leaf with
  | true =>
    obtain ⟨rfl, -⟩ := (codeOf_iff_of_leaf h.1 hi).mp h
    exact Nat.le_refl 1
  | false =>
    obtain ⟨b, q, rfl, -⟩ := leafPath_of_inner hi ((codeOf_iff_of_inner h.1 hi).mp h).1
    exact Nat.succ_le_succ (Nat.zero_le q.length)

/-- Two codes of a tree of which one begins with the other belong to one symbol (R195). -/
theorem CodeOf.sym_eq_of_prefix {s : State} {a b : Byte} {p q : List Bool} (hp : CodeOf s a p) (hq : CodeOf s b q)
    (h : p <+: q) : a = b := by
  have hroot := hp.1
  cases hi : (s.nodeAt s.root).leaf with
  | true =>
    obtain ⟨-, rfl⟩ := (codeOf_iff_of_leaf hroot hi).mp hp
    exact ((codeOf_iff_of_leaf hroot hi).mp hq).2
  | false =>
    obtain ⟨hpath, rfl⟩ := (codeOf_iff_of_inner hroot hi).mp hp
    obtain ⟨hpath', rfl⟩ := (codeOf_iff_of_inner hroot hi).mp hq
    rw [hpath.eq_of_prefix hpath' h]

/-- A state's code table holds the codes its tree gives, none of them longer than m, and no others. -/
structure HoldsTreeCodes (s : State) (m : Nat) : Prop where
  entry   : ∀ sym, s.codeAt sym = CodeEntry.blank ∨
    ∃ p, CodeOf s sym p ∧ p.length ≤ Config.codeStore ∧ s.codeAt sym = pathEntry p
  covered : ∀ sym p, CodeOf s sym p → (s.codeAt sym).valid = true ∧ p.length ≤ m

/-- With ROOT a leaf: the code "0" of its symbol (R192). -/
theorem holdsTreeCodes_leaf {s : State} (hroot : s.root ≠ NIL) (hi : (s.nodeAt s.root).leaf = true)
    (hcode : s.code = setCode freshCodes (s.nodeAt s.root).sym (pathEntry [false])) : HoldsTreeCodes s 1 := by
  have hentry : ∀ sym, s.codeAt sym =
      if sym = (s.nodeAt s.root).sym then pathEntry [false] else CodeEntry.blank := by
    intro sym
    rw [State.codeAt_eq_entryOf, hcode, entryOf_setCode, entryOf_freshCodes]
  refine ⟨fun sym => ?entry, fun sym p hp => ?covered⟩
  case entry =>
    rw [hentry]
    split
    · next heq => exact .inr ⟨[false], (codeOf_iff_of_leaf hroot hi).mpr ⟨rfl, heq.symm⟩, by decide, rfl⟩
    · exact .inl rfl
  case covered =>
    obtain ⟨rfl, rfl⟩ := (codeOf_iff_of_leaf hroot hi).mp hp
    rw [hentry, if_pos rfl]
    exact ⟨rfl, Nat.le_refl 1⟩

/-- With ROOT an internal node: what its walk writes (R191). -/
theorem holdsTreeCodes_inner {s : State} {m : Nat} (hroot : s.root ≠ NIL) (hi : (s.nodeAt s.root).leaf = false)
    (h : Walked s.node s.root [] freshCodes 0 s.code m) : HoldsTreeCodes s m := by
  refine ⟨fun sym => ?entry, fun sym p hp => ?covered⟩
  case entry =>
    rcases h.entry sym with heq | ⟨p, hp, hsym, hlen, heq⟩
    · exact .inl (heq.trans (entryOf_freshCodes sym))
    · exact .inr ⟨p, (codeOf_iff_of_inner hroot hi).mpr ⟨hp, hsym⟩, hlen, heq⟩
  case covered =>
    obtain ⟨hpath, rfl⟩ := (codeOf_iff_of_inner hroot hi).mp hp
    exact h.covered p hpath

/-- A table that GEN made holds the codes of the tree; the empty tree has none (R193). -/
theorem holdsTreeCodes_of_genCodes {s : State} {m : Nat} (h : genCodes s = .ok (s.code, m)) : HoldsTreeCodes s m := by
  by_cases hroot : s.root = NIL
  · rw [genCodes_empty hroot] at h
    obtain ⟨hcode, -⟩ := Prod.mk.inj (Except.ok.inj h)
    refine ⟨fun sym => .inl ?_, fun sym p hp => absurd hroot hp.1⟩
    rw [State.codeAt_eq_entryOf, ← hcode, entryOf_freshCodes]
  · cases hi : (s.nodeAt s.root).leaf with
    | true =>
      rw [genCodes_leaf hroot hi] at h
      obtain ⟨hcode, rfl⟩ := Prod.mk.inj (Except.ok.inj h)
      exact holdsTreeCodes_leaf hroot hi hcode.symm
    | false =>
      rw [genCodes_inner hroot hi] at h
      exact holdsTreeCodes_inner hroot hi (walk_walked (pre := []) h)

section
variable {s : State} {m : Nat} (h : HoldsTreeCodes s m)
include h

/-- A valid code is the path the tree gives its symbol. -/
theorem HoldsTreeCodes.exists_codeOf {sym : Byte} (hv : (s.codeAt sym).valid = true) :
    ∃ p, CodeOf s sym p ∧ p.length ≤ Config.codeStore ∧ s.codeAt sym = pathEntry p := by
  rcases h.entry sym with heq | hcode
  · rw [heq] at hv
    cases hv
  · exact hcode

theorem HoldsTreeCodes.codesMatchTree : CodesMatchTree s := by
  intro sym hv
  obtain ⟨p, hp, hlen, heq⟩ := h.exists_codeOf hv
  rwa [heq, codeString_pathEntry hlen]

/-- Exactly the symbols the tree gives a code have one. -/
theorem HoldsTreeCodes.valid_iff (sym : Byte) : (s.codeAt sym).valid = true ↔ ∃ p, CodeOf s sym p := by
  constructor
  · intro hv
    obtain ⟨p, hp, -, -⟩ := h.exists_codeOf hv
    exact ⟨p, hp⟩
  · rintro ⟨p, hp⟩
    exact (h.covered sym p hp).1

theorem HoldsTreeCodes.len_bounds {sym : Byte} (hv : (s.codeAt sym).valid = true) :
    1 ≤ (s.codeAt sym).len.toNat ∧ (s.codeAt sym).len.toNat ≤ m := by
  obtain ⟨p, hp, hlen, heq⟩ := h.exists_codeOf hv
  rw [heq, pathEntry_len hlen]
  exact ⟨hp.length_pos, (h.covered sym p hp).2⟩

/-- An entry with no code is VALID 0, LEN 0, BITS 0 (R54). -/
theorem HoldsTreeCodes.eq_blank {sym : Byte} (hv : (s.codeAt sym).valid = false) : s.codeAt sym = CodeEntry.blank := by
  rcases h.entry sym with heq | ⟨p, -, -, heq⟩
  · exact heq
  · rw [heq] at hv
    cases hv

theorem HoldsTreeCodes.bits_lt (sym : Byte) : (s.codeAt sym).bits.toNat < 2 ^ (s.codeAt sym).len.toNat := by
  rcases h.entry sym with heq | ⟨p, -, hlen, heq⟩ <;> rw [heq]
  · decide
  · exact pathEntry_bits_lt hlen

end

/-! ## GEN (R190-R194) -/

section
variable {s : State} (hv : s.treeValid = true) (hc : s.codeValid = false)
include hv hc

theorem precondition_gen : precondition .gen s = true := by simp [precondition, hv, hc]

/-- GEN writes the codes it makes (R190). -/
theorem exec_gen_ok {c : CodeTable} {m : Nat} (hgen : genCodes s = .ok (c, m)) : exec .gen s = .next { s with
    code := c, maxlen := BitVec.ofNat 8 m, codeValid := true, busy := false, done := true } :=
  exec_success (s1 := { s with code := c, maxlen := BitVec.ofNat 8 m, codeValid := true }) (by decide)
    (precondition_gen hv hc) (by rw [innerBody, genBody, hgen])

/-- GEN raises the error its walk ends in (R194). -/
theorem exec_gen_error {e : ErrCode} (hgen : genCodes s = .error e) : exec .gen s = .next (s.raise e) :=
  exec_failure (by decide) (precondition_gen hv hc) (by rw [innerBody, genBody, hgen])

end

/-- Settles O29: the walk succeeds exactly over a shallow tree, and then the table holds the codes of the tree and MAXLEN is
the longest of them. -/
theorem genWritesThePathsOfTheTree : Obligations.GenWritesThePathsOfTheTree := by
  intro s hv hc hroot hi
  have hgen := genCodes_inner hroot hi
  obtain ⟨hok, herror⟩ := walk_ok_or_codelen (t := s.node) (i := s.root) (v := 0) (Nat.zero_add Config.codeStore)
    (freshCodes, 0)
  refine ⟨fun hshallow => ?shallow, fun hdeep => ?deep⟩
  case deep => exact exec_gen_error hv hc (hgen.trans (herror hdeep))
  case shallow =>
    obtain ⟨⟨c, m⟩, hwalk⟩ := hok hshallow
    rw [hwalk] at hgen
    refine ⟨_, exec_gen_ok hv hc hgen, rfl, rfl, ?_⟩
    have hm : m % 2 ^ 8 = m := Nat.mod_eq_of_lt ((genCodes_maxlen_le hgen).trans_lt (by decide))
    have hwalked := walk_walked (pre := []) hwalk
    have hcodes : HoldsTreeCodes { s with
        code := c, maxlen := BitVec.ofNat 8 m, codeValid := true, busy := false, done := true } m :=
      holdsTreeCodes_of_genCodes ((genCodes_congr rfl rfl).trans hgen)
    simp only [BitVec.toNat_ofNat, hm]
    refine ⟨hcodes.codesMatchTree, hwalked.covered, ?longest, fun sym => hcodes.eq_blank, hcodes.bits_lt⟩
    case longest =>
      obtain ⟨p, hp, hlongest⟩ := hwalked.longest
      exact ⟨p, hp, by simpa using hlongest.symm⟩

/-- Settles O30: the table GEN writes is the fresh one with the code "0" for the root's symbol. -/
theorem genOfOneSymbolIsZero : Obligations.GenOfOneSymbolIsZero := by
  intro s hv hc hroot hi
  refine ⟨_, exec_gen_ok hv hc (genCodes_leaf hroot hi), rfl, rfl, fun sym => ?_⟩
  rw [State.codeAt_eq_entryOf, entryOf_setCode, entryOf_freshCodes]
  rfl

/-! ## The empty tree (R193) -/

/-- ENC_SYM of a symbol without a code (R211). -/
theorem exec_encSym_nocode {s : State} {sym : Byte} (hm : s.mode = .enc) (hv : (s.codeAt sym).valid = false) :
    exec (.encSym sym) s = .next (s.raise .nocode) :=
  exec_failure (by simp) (by simp [precondition, hm]) (if_pos hv)

/-- ENC_START writes no code (R210). -/
theorem exec_encStart_codeAt {s t : State} (h : exec .encStart s = .next t) (sym : Byte) : t.codeAt sym = s.codeAt sym := by
  rw [exec_frame (by decide) h]
  rfl

/-- Settles O31: over the empty tree GEN's table is the fresh one, in which no symbol has a code. -/
theorem genOfTheEmptyTree : Obligations.GenOfTheEmptyTree := by
  refine ⟨fun u sym hcodes hc hroot hmode => ?invariant, fun s hv hc hroot => ?afterGen⟩
  case invariant =>
    obtain ⟨hfresh, -⟩ := Prod.mk.inj (Except.ok.inj ((genCodes_empty hroot).symm.trans (hcodes hc)))
    refine exec_encSym_nocode hmode ?_
    rw [State.codeAt_eq_entryOf, ← hfresh, entryOf_freshCodes]
    rfl
  case afterGen =>
    refine ⟨_, exec_gen_ok hv hc (genCodes_empty hroot), rfl, rfl, entryOf_freshCodes, fun u sym hstart hmode => ?_⟩
    refine exec_encSym_nocode hmode ?_
    rw [exec_encStart_codeAt hstart, State.codeAt_eq_entryOf, entryOf_freshCodes]
    rfl

/-! ## Prefix-free (R195) -/

/-- Settles O32: the codes are paths to leaves, and no path to a leaf begins another one. -/
theorem codesArePrefixFree : Obligations.CodesArePrefixFree :=
  fun _ a b hmatch ha hb hne hprefix => hne ((hmatch a ha).sym_eq_of_prefix (hmatch b hb) hprefix)

/-! ## The leaves of the tree BUILD made, and the paths to them (R195, R176) -/

/-- The children of a merged node stand below it (R172). -/
theorem MergedAt.childOf_lt {t : NodeTable} {n k : Nat} (h : MergedAt t n k) (b : Bool) :
    (childOf (nodeAt t (BitVec.ofNat 9 k)) b).toNat < k := by
  cases b with
  | false => exact h.children_lt.1
  | true => exact h.children_lt.2

theorem ofNat_toNat_idx (i : NodeIdx) : BitVec.ofNat 9 i.toNat = i := by simp

section
variable {s : State} (h : Holds s.node (buildTree s.freq).1)
include h

/-- The nodes below NSYM are the leaves of the frequency table (R171). -/
theorem holds_leaves : Holds s.node (leaves s.freq) := by
  obtain ⟨inner, htree⟩ := buildTree_eq_leaves_append s.freq
  exact (htree ▸ h).of_append

/-- Below NSYM stand the leaves of present symbols (R171). -/
theorem exists_present_of_lt {k : Nat} (hk : k < presentSymbols s.freq) :
    ∃ sym, s.freqAt sym ≠ 0#32 ∧ nodeAt s.node (BitVec.ofNat 9 k) = leafNode sym (s.freqAt sym) := by
  rw [← leaves_length] at hk
  obtain ⟨sym, hsym, heq⟩ := mem_leaves.mp (List.getElem_mem hk)
  exact ⟨sym, hsym, (holds_leaves h k _ (List.getElem?_eq_getElem hk)).trans heq⟩

/-- Every present symbol has its leaf (R171). -/
theorem exists_leaf_of_present {sym : Byte} (hsym : s.freqAt sym ≠ 0#32) : ∃ k, k < (buildTree s.freq).1.length ∧
    nodeAt s.node (BitVec.ofNat 9 k) = leafNode sym (s.freqAt sym) := by
  obtain ⟨k, hk, heq⟩ := List.getElem_of_mem (mem_leaves.mpr ⟨sym, hsym, rfl⟩)
  have hle := (buildTree_merging h).leaves_le
  rw [← leaves_length] at hle
  exact ⟨k, hk.trans_le hle, (holds_leaves h k _ (List.getElem?_eq_getElem hk)).trans heq⟩

/-- A path from a node of the tree ends at the leaf of a present symbol: the nodes past the leaves are internal, and every step
goes to a lower node. -/
theorem freqAt_ne_zero_of_leafPath {k : Nat} {p : List Bool} (hk : k < (buildTree s.freq).1.length)
    (hp : LeafPath s.node (BitVec.ofNat 9 k) p) :
    s.freqAt (nodeAt s.node (followPath s.node (BitVec.ofNat 9 k) p)).sym ≠ 0#32 := by
  have hinv := buildTree_merging h
  induction p generalizing k with
  | nil =>
    have hleaf : (nodeAt s.node (BitVec.ofNat 9 k)).leaf = true := hp
    rcases Nat.lt_or_ge k (presentSymbols s.freq) with hn | hn
    · obtain ⟨sym, hsym, hnode⟩ := exists_present_of_lt h hn
      rw [followPath, hnode]
      exact hsym
    · exact absurd (hleaf.symm.trans (hinv.merged k hn hk).leaf) (by decide)
  | cons b p ih =>
    obtain ⟨hinner, hp⟩ := hp
    rcases Nat.lt_or_ge k (presentSymbols s.freq) with hn | hn
    · obtain ⟨sym, -, hnode⟩ := exists_present_of_lt h hn
      rw [hnode] at hinner
      cases hinner
    · have hchild := (hinv.merged k hn hk).childOf_lt b
      rw [← ofNat_toNat_idx (childOf _ b)] at hp
      have hend := ih (hchild.trans hk) hp
      rwa [ofNat_toNat_idx] at hend

/-- A node that has left the collection is the child of a later merge (R172). -/
theorem exists_parent {k : Nat} (hk : k < (buildTree s.freq).1.length) (hq : k ∉ (buildTree s.freq).2.map QEntry.idx) :
    ∃ j b, k < j ∧ j < (buildTree s.freq).1.length ∧ (nodeAt s.node (BitVec.ofNat 9 j)).leaf = false ∧
      childOf (nodeAt s.node (BitVec.ofNat 9 j)) b = BitVec.ofNat 9 k := by
  have hinv := buildTree_merging h
  rw [hinv.collected] at hq
  obtain ⟨j, hj, hlt, b, hchild⟩ : ∃ j, presentSymbols s.freq ≤ j ∧ j < (buildTree s.freq).1.length ∧
      ∃ b, (childOf (nodeAt s.node (BitVec.ofNat 9 j)) b).toNat = k := by
    by_contra hnone
    push Not at hnone
    exact hq ⟨hk, fun j hj hlt => ⟨hnone j hj hlt false, hnone j hj hlt true⟩⟩
  have hmerged := hinv.merged j hj hlt
  exact ⟨j, b, hchild ▸ hmerged.childOf_lt b, hlt, hmerged.leaf, by rw [← hchild, ofNat_toNat_idx]⟩

/-- Every node of the tree is ROOT or the child of a later one, so every path to a leaf is the end of one from ROOT (R176). -/
theorem exists_leafPath_from_root {e : QEntry} (he : (buildTree s.freq).2 = [e]) {k : Nat}
    (hk : k < (buildTree s.freq).1.length) {q : List Bool} (hq : LeafPath s.node (BitVec.ofNat 9 k) q) :
    ∃ p, LeafPath s.node (BitVec.ofNat 9 e.idx) p ∧
      followPath s.node (BitVec.ofNat 9 e.idx) p = followPath s.node (BitVec.ofNat 9 k) q := by
  by_cases hroot : k = e.idx
  · exact hroot ▸ ⟨q, hq, rfl⟩
  · obtain ⟨j, b, hlt, hj, hinner, hchild⟩ := exists_parent h hk (by simpa [he] using hroot)
    obtain ⟨p, hp, hend⟩ := exists_leafPath_from_root he hj (q := b :: q) ⟨hinner, hchild ▸ hq⟩
    exact ⟨p, hp, by rw [hend, followPath, hchild]⟩
termination_by (buildTree s.freq).1.length - k

end

/-! ## The codes of a good state (R195) -/

/-- A symbol has a code in the tree exactly when a path from ROOT leads to a leaf of it (R191, R192). -/
theorem exists_codeOf_iff {s : State} {sym : Byte} (hroot : s.root ≠ NIL) :
    (∃ p, CodeOf s sym p) ↔ ∃ p, LeafPath s.node s.root p ∧ (nodeAt s.node (followPath s.node s.root p)).sym = sym := by
  cases hi : (s.nodeAt s.root).leaf with
  | true =>
    simp only [codeOf_iff_of_leaf hroot hi]
    constructor
    · rintro ⟨-, -, hsym⟩
      exact ⟨[], hi, hsym⟩
    · rintro ⟨p, hp, hsym⟩
      rw [leafPath_of_leaf hi hp] at hsym
      exact ⟨[false], rfl, hsym⟩
  | false =>
    simp only [codeOf_iff_of_inner hroot hi]
    rfl

/-- The tree in the registers of a state with TREE_VALID = 1 stands in its node table (R71). -/
theorem TreeIsBuilt.holds {s : State} (h : TreeIsBuilt s) (hv : s.treeValid = true) :
    Holds s.node (buildTree s.freq).1 := by
  obtain ⟨-, -, hnode⟩ := h hv
  intro i n hn
  have hfit := (List.getElem?_eq_some_iff.mp hn).1.trans_le (buildTree_length_le s.freq)
  rw [nodeAt, toNat_ofNat_idx hfit, hnode i n hn, Option.getD_some]

/-- BUILD of no symbol makes no node, and ROOT is NIL (R174). -/
theorem rootOf_buildTree_empty {f : FreqTable} (h : presentSymbols f = 0) : rootOf (buildTree f).2 = NIL := by
  have hleaves : leaves f = [] := List.eq_nil_of_length_eq_zero ((leaves_length f).trans h)
  rw [buildTree, hleaves]
  rfl

/-- The tree BUILD made gives a code to exactly the present symbols (R195). -/
theorem exists_codeOf_iff_present {s : State} (h : TreeIsBuilt s) (hv : s.treeValid = true) (sym : Byte) :
    (∃ p, CodeOf s sym p) ↔ s.freqAt sym ≠ 0#32 := by
  have hholds := h.holds hv
  obtain ⟨hroot, -, -⟩ := h hv
  rcases Nat.eq_zero_or_pos (presentSymbols s.freq) with hnone | hsome
  · refine iff_of_false (fun ⟨p, hp⟩ => hp.1 (hroot.trans (rootOf_buildTree_empty hnone))) fun hsym => ?_
    have hmem := mem_leaves.mpr ⟨sym, hsym, rfl⟩
    rw [List.eq_nil_of_length_eq_zero ((leaves_length s.freq).trans hnone)] at hmem
    cases hmem
  · obtain ⟨e, he, hidx⟩ := rootOf_buildTree hsome hholds
    have hfit := buildTree_length_le s.freq
    rw [he] at hroot
    change s.root = BitVec.ofNat 9 e.idx at hroot
    have hne : s.root ≠ NIL := by
      intro hnil
      have hnat := toNat_ofNat_idx (i := e.idx) (by omega)
      have hNIL : NIL.toNat = 511 := rfl
      rw [← hroot, hnil] at hnat
      omega
    rw [exists_codeOf_iff hne, hroot]
    constructor
    · rintro ⟨p, hp, rfl⟩
      exact freqAt_ne_zero_of_leafPath hholds (by omega) hp
    · intro hsym
      obtain ⟨k, hk, hnode⟩ := exists_leaf_of_present hholds hsym
      have hleaf : LeafPath s.node (BitVec.ofNat 9 k) [] := congrArg Node.leaf hnode
      obtain ⟨p, hp, hend⟩ := exists_leafPath_from_root hholds he hk hleaf
      exact ⟨p, hp, by rw [hend, followPath, hnode]; rfl⟩

/-- Settles O33: the codes are GEN's and the tree is BUILD's. -/
theorem goodStatesHaveTheTreesCodes : Obligations.GoodStatesHaveTheTreesCodes := by
  intro s hinv hc
  have hcodes := holdsTreeCodes_of_genCodes (hinv.codes hc)
  obtain ⟨hphase, -, -⟩ := hinv.phase
  have hv : s.treeValid = true := by
    by_contra hv
    obtain ⟨hnone, -⟩ := hphase (Bool.eq_false_of_not_eq_true hv)
    exact absurd (hc.symm.trans hnone) (by decide)
  exact ⟨hcodes.codesMatchTree, fun sym => (hcodes.valid_iff sym).trans (exists_codeOf_iff_present hinv.tree hv sym),
    fun sym => hcodes.len_bounds⟩

end Sys2Proof.Machine

/-! # The encoder (spec/44_encoder.md): which bytes of OUT change, PushBit, the three commands, and the encoding of a text -/

namespace Sys2Proof.Machine

/-! ## The bytes a command stores (R211-R213, R232) -/

/-- OUTCNT is not lowered, and only the bytes from OUTCNT before to OUTCNT after may differ. -/
def OnlyNewBytes (s t : State) : Prop :=
  s.outcnt.toNat ≤ t.outcnt.toNat ∧ ∀ j, j < s.outcnt.toNat ∨ t.outcnt.toNat ≤ j → t.outByte j = s.outByte j

theorem OnlyNewBytes.refl (s : State) : OnlyNewBytes s s := ⟨le_rfl, fun _ _ => rfl⟩

/-- The bytes pushed with room in OUT (R211, R213). -/
theorem onlyNewBytes_pushBits {s : State} (hw : Memory.wf s.out = true) {bs : List Bool}
    (hroom : s.outcnt.toNat + (s.accN.toNat + bs.length) / 8 ≤ s.outDepth) : OnlyNewBytes s (s.pushBits bs) := by
  obtain ⟨hcnt, -, hbytes⟩ := State.pushBits_out hw bs (by have := s.outDepth_le; omega)
  rw [← hcnt] at hbytes
  exact ⟨by omega, hbytes⟩

/-- The bytes emitted with room in OUT (R212, R232). -/
theorem onlyNewBytes_emitAll {s : State} (hw : Memory.wf s.out = true) {bs : List Byte}
    (hroom : s.outcnt.toNat + bs.length ≤ s.outDepth) : OnlyNewBytes s (s.emitAll bs) := by
  obtain ⟨hcnt, -, hbytes⟩ := State.emitAll_out hw bs (by have := s.outDepth_le; omega)
  rw [← hcnt] at hbytes
  exact ⟨by omega, hbytes⟩

/-- The commands that store into OUT (R211, R212, R232). -/
def StoresBytes (i : Instr) : Prop := (∃ sym, i = .encSym sym) ∨ i = .encFlush ∨ ∃ byte nb, i = .decByte byte nb

/-- A body that stores into OUT checks the room first, and stores from OUTCNT on. -/
theorem innerBody_onlyNewBytes {i : Instr} {s t : State} (hi : StoresBytes i) (hw : Memory.wf s.out = true)
    (h : innerBody i s = .ok t) : OnlyNewBytes s t := by
  rcases hi with ⟨sym, rfl⟩ | rfl | ⟨byte, nb, rfl⟩
  · obtain ⟨-, hroom, rfl⟩ := encSymBody_ok h
    exact onlyNewBytes_pushBits hw (by rw [codeString_length]; exact hroom)
  · rcases encFlushBody_ok h with ⟨-, rfl⟩ | ⟨-, hroom, rfl⟩
    · exact OnlyNewBytes.refl s
    · exact onlyNewBytes_emitAll (bs := [flushByte s.acc s.accN]) hw hroom
  · obtain ⟨-, cur, es, -, hroom, rfl⟩ := decByteBody_ok h
    exact onlyNewBytes_emitAll hw hroom

/-- A command that stores into OUT changes the bytes it counts in OUTCNT only, and none when it takes an error. -/
theorem exec_onlyNewBytes {i : Instr} {s t : State} (hi : StoresBytes i) (hw : Memory.wf s.out = true)
    (h : exec i s = .next t) : OnlyNewBytes s t := by
  rcases exec_cases h with ⟨rfl, -⟩ | ⟨-, -, s1, hbody, rfl⟩ | ⟨-, e, -, rfl⟩
  · simp [StoresBytes] at hi
  · have hbytes : OnlyNewBytes s s1 := innerBody_onlyNewBytes hi hw (require_ok hbody).2
    exact hbytes
  · exact OnlyNewBytes.refl s

/-- Every other command leaves OUT as it is. -/
theorem exec_out_eq {i : Instr} {s t : State} (hi : ¬ StoresBytes i) (h : exec i s = .next t) : t.out = s.out := by
  have hframe (hreset : i ≠ .reset) : t.out = (commandFrame i s t).out :=
    (congrArg State.out (exec_frame hreset h) :)
  cases i with
  | reset => cases h; rfl
  | encSym | encFlush | decByte => simp [StoresBytes] at hi
  | nop | freqClr | freqAdd | freqSet | build | gen | encStart | decStart | decEnd => exact hframe (by simp)

/-- Settles O16: a command stores with room only, from OUTCNT on, or not at all. -/
theorem onlyNewOutputBytesChange : Obligations.OnlyNewOutputBytesChange := by
  refine fun i s t hw h => ⟨fun hi => exec_onlyNewBytes hi hw h, fun hsym hflush hbyte j => ?_⟩
  have hi : ¬ StoresBytes i := by
    rintro (⟨sym, rfl⟩ | rfl | ⟨byte, nb, rfl⟩)
    exacts [hsym sym rfl, hflush rfl, hbyte byte nb rfl]
  rw [State.outByte, exec_out_eq hi h, State.outByte]

/-! ## PushBit (R213) -/

/-- With fewer than seven bits pending, one more fits ACC: nothing is lost (R213). -/
theorem accPush_toNat {acc : BitVec 7} {accN : BitVec 3} (h : accN ≠ 7#3) (b : Bool) :
    (accPush acc accN b).toNat = 2 * (acc.toNat % 2 ^ accN.toNat) + bitNat b := by
  have hn : accN.toNat ≤ 6 := by bv_omega
  have hpow : 2 ^ accN.toNat ≤ 2 ^ 6 := Nat.pow_le_pow_right (by decide) hn
  have hpending : acc.toNat % 2 ^ accN.toNat < 2 ^ accN.toNat := Nat.mod_lt _ (Nat.two_pow_pos _)
  have hbit : bitNat b ≤ 1 := by cases b <;> decide
  exact Nat.mod_eq_of_lt (by omega)

/-- Settles O35: the two cases of PushBit, and the one byte `emit` writes. -/
theorem pushBitFillsBytesFromBitSeven : Obligations.PushBitFillsBytesFromBitSeven := by
  refine fun s b hw => ⟨fun h => ?pending, fun h => ?full⟩
  case pending =>
    rw [State.pushBit_pending h]
    exact ⟨rfl, accPush_toNat h b, rfl⟩
  case full =>
    rw [State.pushBit_full h]
    exact ⟨rfl, (State.outByte_emit hw _ _).trans (if_pos rfl),
      fun j hj => (State.outByte_emit hw _ j).trans (if_neg hj.symm), rfl⟩

/-! ## The encoder's commands (R210-R212) -/

/-- Settles O34: the precondition decides between E_SEQ and the body, which cannot fail. -/
theorem encStartBeginsAnEncoding : Obligations.EncStartBeginsAnEncoding := by
  refine ⟨decodeOfEncodeIsTheCommand .encStart, fun s => ⟨fun hnot => ?seq, fun hc hm => ?started⟩⟩
  case seq => exact exec_badSeq (by decide) (by simpa [precondition] using hnot)
  case started => exact exec_success (i := .encStart) (by decide) (by simp [precondition, hc, hm]) rfl

/-- The body of ENC_SYM when the symbol has a code (R211). -/
theorem encSymBody_of_valid {s : State} {sym : Byte} (hv : (s.codeAt sym).valid = true) :
    encSymBody sym s = if s.outDepth < s.outcnt.toNat + completedBytes s (s.codeAt sym) then .error .outfull
      else .ok { s.pushBits (codeString (s.codeAt sym)) with
        encBitcnt := s.encBitcnt + (s.codeAt sym).len.setWidth 32 } :=
  if_neg (by simp [hv])

/-- Settles O36: the body's two conditions in their order, and the counts of the bits pushed. -/
theorem encSymAppendsTheCode : Obligations.EncSymAppendsTheCode := by
  refine fun s sym => ⟨decodeOfEncodeIsTheCommand (.encSym sym), fun hm => ?seq, exec_encSym_nocode,
    fun hm hv hfull => ?outfull, fun hm hv hroom => ⟨?appended, ?counts⟩⟩
  case seq => exact exec_badSeq (by simp) (by simp [precondition, hm])
  case outfull =>
    exact exec_failure (by simp) (by simp [precondition, hm]) ((encSymBody_of_valid hv).trans (if_pos hfull))
  case appended =>
    exact exec_success (i := .encSym sym) (by simp) (by simp [precondition, hm])
      ((encSymBody_of_valid hv).trans (if_neg (Nat.not_lt.mpr hroom)))
  case counts =>
    have hdepth := s.outDepth_le
    have hcounts := State.pushBits_counts (s := s) (codeString (s.codeAt sym)) (by rw [codeString_length]; omega)
    rwa [codeString_length] at hcounts

/-- The body of ENC_FLUSH when bits are pending (R212). -/
theorem encFlushBody_of_pending {s : State} (hn : s.accN ≠ 0#3) :
    encFlushBody s = if s.outDepth < s.outcnt.toNat + 1 then .error .outfull
      else .ok { s.emit (flushByte s.acc s.accN) with
        padbits := BitVec.ofNat 3 (8 - s.accN.toNat), acc := 0#7, accN := 0#3, mode := .idle } :=
  if_neg hn

/-- Settles O37: the body's two conditions in their order, and the one byte `emit` writes. -/
theorem encFlushPadsTheLastByte : Obligations.EncFlushPadsTheLastByte := by
  refine ⟨decodeOfEncodeIsTheCommand .encFlush, fun s => ⟨fun hm => ?seq, fun hm hn => ?aligned,
    fun hm hn hfull => ?outfull, fun hm hn hroom hw => ?padded⟩⟩
  case seq => exact exec_badSeq (by decide) (by simp [precondition, hm])
  case aligned => exact exec_success (i := .encFlush) (by decide) (by simp [precondition, hm]) (if_pos hn)
  case outfull =>
    exact exec_failure (by decide) (by simp [precondition, hm]) ((encFlushBody_of_pending hn).trans (if_pos hfull))
  case padded =>
    have hbyte : (flushByte s.acc s.accN).toNat = s.acc.toNat * 2 ^ (8 - s.accN.toNat) % 256 := BitVec.toNat_ofNat ..
    have hpad : (BitVec.ofNat 3 (8 - s.accN.toNat)).toNat = 8 - s.accN.toNat := by bv_omega
    refine ⟨_, exec_success (by decide) (by simp [precondition, hm])
      ((encFlushBody_of_pending hn).trans (if_neg (Nat.not_lt.mpr hroom))), ?_, ?_, hpad, rfl⟩
    · rw [← hbyte]
      exact congrArg BitVec.toNat ((State.outByte_emit hw _ _).trans (if_pos rfl))
    · exact fun j hj => (State.outByte_emit hw _ j).trans (if_neg hj.symm)

/-! ## Numbers as bit strings, highest bit first (R90, R213) -/

/-- The n low bits of a number, highest first. -/
def bitsOf (n v : Nat) : List Bool := (List.range n).reverse.map v.testBit

@[simp] theorem bitsOf_length (n v : Nat) : (bitsOf n v).length = n := by simp [bitsOf]

/-- One bit more at the low end. -/
theorem bitsOf_bit (n : Nat) (b : Bool) (v : Nat) : bitsOf (n + 1) (Nat.bit b v) = bitsOf n v ++ [b] := by
  have hshift : (Nat.bit b v).testBit ∘ Nat.succ = v.testBit := funext fun j => Nat.testBit_bit_succ j b v
  rw [bitsOf, bitsOf, List.range_succ_eq_map, List.reverse_cons, List.map_append, ← List.map_reverse, List.map_map, hshift,
    List.map_singleton, Nat.testBit_bit_zero]

/-- Zeros at the low end (R212). -/
theorem bitsOf_mul_two_pow (n k v : Nat) : bitsOf (n + k) (v * 2 ^ k) = bitsOf n v ++ List.replicate k false := by
  induction k with
  | zero => simp
  | succ k ih =>
    have hbit : v * 2 ^ (k + 1) = Nat.bit false (v * 2 ^ k) := by rw [Nat.bit_false_apply, Nat.pow_succ]; ring
    rw [hbit, ← Nat.add_assoc, bitsOf_bit, ih, List.replicate_succ', List.append_assoc]

/-- Bits at n and above do not matter. -/
theorem bitsOf_mod_two_pow (n v : Nat) : bitsOf n (v % 2 ^ n) = bitsOf n v := by
  refine List.map_congr_left fun j hj => ?_
  have hlt : j < n := List.mem_range.mp (List.mem_reverse.mp hj)
  rw [Nat.testBit_mod_two_pow, decide_eq_true hlt, Bool.true_and]

/-- All eight bits of a bitstream byte, from bit 7 down (R90). -/
theorem streamBits_eight (byte : Byte) : streamBits byte 8 = bitsOf 8 byte.toNat := rfl

/-! ## The bits an encoding has packed (R213, R214) -/

/-- The pending bits, earliest first: ACC[ACC_N-1:0] (R61). -/
def State.pendingBits (s : State) : List Bool := bitsOf s.accN.toNat s.acc.toNat

/-- The bits of OUT[0..OUTCNT-1], bit 7 of each byte first (R90). -/
def State.storedBits (s : State) : List Bool := (outputBytes s).flatMap fun b => streamBits b 8

/-- All bits packed since ENC_START: those in OUT and the pending ones behind them (R213). -/
def State.packedBits (s : State) : List Bool := s.storedBits ++ s.pendingBits

/-- The packed bits are counted by OUTCNT and ACC_N. -/
theorem packedBits_length (s : State) : s.packedBits.length = 8 * s.outcnt.toNat + s.accN.toNat := by
  simp [State.packedBits, State.storedBits, State.pendingBits, outputBytes, streamBits_eight, List.length_flatMap,
    Function.comp_def, Nat.mul_comm]

/-- One byte stored at OUT[OUTCNT] puts its bits behind those stored before. -/
theorem storedBits_of_store {s t : State} {b : Byte} (hcnt : t.outcnt.toNat = s.outcnt.toNat + 1)
    (hbyte : t.outByte s.outcnt.toNat = b) (hkeep : ∀ j, j ≠ s.outcnt.toNat → t.outByte j = s.outByte j) :
    t.storedBits = s.storedBits ++ bitsOf 8 b.toNat := by
  have hbytes : outputBytes t = outputBytes s ++ [b] := by
    rw [outputBytes, hcnt, List.range_succ, List.map_append, List.map_singleton, hbyte, outputBytes]
    exact congrArg (· ++ [b]) (List.map_congr_left fun j hj => hkeep j (List.mem_range.mp hj).ne)
  rw [State.storedBits, hbytes, List.flatMap_append, List.flatMap_singleton, streamBits_eight, State.storedBits]

/-- PushBit puts its bit behind the packed ones (R213). -/
theorem packedBits_pushBit {s : State} (hw : Memory.wf s.out = true) (b : Bool) (hfits : s.packedBits.length + 1 < 2 ^ 20) :
    (s.pushBit b).packedBits = s.packedBits ++ [b] := by
  obtain ⟨hpending, hfull⟩ := pushBitFillsBytesFromBitSeven s b hw
  by_cases h : s.accN = 7#3
  · obtain ⟨hcount, hbyte, hkeep, heq⟩ := hfull h
    have hval : (s.acc ++ BitVec.ofBool b : BitVec 8).toNat = Nat.bit b s.acc.toNat :=
      (BitVec.toNat_concat s.acc b).trans (by rw [Nat.bit_val, Nat.mul_comm])
    have hnone : (s.pushBit b).pendingBits = [] := by rw [heq]; rfl
    have hseven : s.pendingBits = bitsOf 7 s.acc.toNat := by rw [State.pendingBits, h]; rfl
    have hnat : (s.pushBit b).outcnt.toNat = s.outcnt.toNat + 1 := by
      rw [packedBits_length] at hfits
      rw [hcount]
      bv_omega
    rw [State.packedBits, hnone, List.append_nil, storedBits_of_store hnat hbyte hkeep, hval, bitsOf_bit,
      ← List.append_assoc, ← hseven, State.packedBits]
  · obtain ⟨hn, hacc, heq⟩ := hpending h
    have hval : (s.pushBit b).acc.toNat = Nat.bit b (s.acc.toNat % 2 ^ s.accN.toNat) := by
      rw [hacc]; cases b <;> rfl
    have hnat : (s.pushBit b).accN.toNat = s.accN.toNat + 1 := by rw [hn]; bv_omega
    have hstored : (s.pushBit b).storedBits = s.storedBits := by rw [heq]; rfl
    have hpend : (s.pushBit b).pendingBits = s.pendingBits ++ [b] := by
      rw [State.pendingBits, hnat, hval, bitsOf_bit, bitsOf_mod_two_pow, State.pendingBits]
    rw [State.packedBits, hstored, hpend, ← List.append_assoc, State.packedBits]

/-- `pushBits` puts its bits behind the packed ones (R211, R213). -/
theorem packedBits_pushBits {s : State} (hw : Memory.wf s.out = true) (bs : List Bool)
    (hfits : (s.packedBits ++ bs).length < 2 ^ 20) : (s.pushBits bs).packedBits = s.packedBits ++ bs := by
  induction bs generalizing s with
  | nil => rw [State.pushBits, List.append_nil]
  | cons b bs ih =>
    rw [List.length_append, List.length_cons] at hfits
    have hone : (s.pushBit b).packedBits = s.packedBits ++ [b] := packedBits_pushBit hw b (by omega)
    have hsplit : s.packedBits ++ b :: bs = (s.pushBit b).packedBits ++ bs := by rw [hone, List.append_cons]
    have hw' : Memory.wf (s.pushBit b).out = true := State.wf_pushBits hw [b]
    rw [hsplit]
    exact ih hw' (by rw [hone, List.length_append, List.length_append, List.length_singleton]; omega)

/-! ## ENC_START and ENC_SYM from a state with codes (R210, R211) -/

/-- Between the ENC_START and the ENC_FLUSH of an encoding that began in s, with the codes of s: t has packed `bits` so far,
and the bytes they complete fit. Which bits stand in OUT is known when OUT was in its canonical form (log entry 17). -/
structure Packs (s : State) (bits : List Bool) (t : State) : Prop where
  err     : t.err = false
  errcode : t.errcode = s.errcode
  mode    : t.mode = .enc
  code    : t.code = s.code
  params  : t.params = s.params
  count   : 8 * t.outcnt.toNat + t.accN.toNat = bits.length
  room    : bits.length / 8 ≤ s.outDepth
  bitcnt  : t.encBitcnt.toNat = bits.length % 2 ^ 32
  out     : Memory.wf s.out = true → Memory.wf t.out = true ∧ t.packedBits = bits

theorem Packs.codeAt_eq {s t : State} {bits : List Bool} (h : Packs s bits t) (b : Byte) : t.codeAt b = s.codeAt b :=
  congrArg (entryOf · b) h.code

theorem Packs.outDepth_eq {s t : State} {bits : List Bool} (h : Packs s bits t) : t.outDepth = s.outDepth :=
  congrArg Params.outDepth h.params

/-- Acceptance packs nothing (R261). -/
theorem Packs.latch {s t : State} {bits : List Bool} (h : Packs s bits t) (w : Word) : Packs s bits (t.latch w) where
  err := h.err
  errcode := h.errcode
  mode := h.mode
  code := h.code
  params := h.params
  count := h.count
  room := h.room
  bitcnt := h.bitcnt
  out := h.out

/-- ENC_START packs nothing (R210). -/
theorem exec_encStart_packs {s : State} (he : s.err = false) (hc : s.codeValid = true) (hm : s.mode = .idle) :
    ∃ t, exec .encStart s = .next t ∧ Packs s [] t := by
  obtain ⟨-, hstart⟩ := encStartBeginsAnEncoding
  obtain ⟨-, hok⟩ := hstart s
  exact ⟨_, hok hc hm, he, rfl, rfl, rfl, rfl, rfl, Nat.zero_le _, rfl, fun hw => ⟨hw, rfl⟩⟩

/-- ENC_SYM with room packs the code of its symbol (R211). -/
theorem Packs.exec_encSym {s t : State} {bits : List Bool} {b : Byte} (h : Packs s bits t)
    (hv : (s.codeAt b).valid = true) (hroom : (bits ++ codeString (s.codeAt b)).length / 8 ≤ s.outDepth) :
    ∃ u, exec (.encSym b) t = .next u ∧ Packs s (bits ++ codeString (s.codeAt b)) u := by
  obtain ⟨-, -, -, -, hok⟩ := encSymAppendsTheCode t b
  rw [h.codeAt_eq, h.outDepth_eq] at hok
  have hdepth := s.outDepth_le
  have hcount := h.count
  have hlen : (bits ++ codeString (s.codeAt b)).length = bits.length + (s.codeAt b).len.toNat := by
    rw [List.length_append, codeString_length]
  obtain ⟨hexec, hcnt, hn⟩ := hok h.mode hv (by omega)
  refine ⟨_, hexec, ?_⟩
  constructor
  case err => exact (State.pushBits_err t _).trans h.err
  case errcode => exact (State.pushBits_errcode t _).trans h.errcode
  case mode => exact (State.pushBits_mode t _).trans h.mode
  case code => exact (State.pushBits_code t _).trans h.code
  case params => exact (State.pushBits_params t _).trans h.params
  case count =>
    rw [hcnt, hn, hlen]
    omega
  case room => exact hroom
  case bitcnt =>
    have hbitcnt := h.bitcnt
    rw [hlen]
    bv_omega
  case out =>
    intro hw
    obtain ⟨hwt, hpacked⟩ := h.out hw
    refine ⟨State.wf_pushBits hwt _, ?_⟩
    rw [← hpacked]
    exact packedBits_pushBits hwt _ (by rw [hpacked]; omega)

/-- ENC_SYM without room takes E_OUTFULL (R211). -/
theorem Packs.exec_encSym_outfull {s t : State} {bits : List Bool} {b : Byte} (h : Packs s bits t)
    (hv : (s.codeAt b).valid = true) (hfull : s.outDepth < (bits ++ codeString (s.codeAt b)).length / 8) :
    exec (.encSym b) t = .next (t.raise .outfull) := by
  obtain ⟨-, -, -, hraise, -⟩ := encSymAppendsTheCode t b
  rw [h.codeAt_eq, h.outDepth_eq] at hraise
  rw [List.length_append, codeString_length] at hfull
  have hcount := h.count
  exact hraise h.mode hv (by omega)

/-! ## ENC_FLUSH (R212) -/

/-- The result of an encoding: bits, padded with PADBITS zeros, stand in OUT[0..OUTCNT-1] (R214). -/
structure Padded (bits : List Bool) (t : State) : Prop where
  err     : t.err = false
  mode    : t.mode = .idle
  outcnt  : t.outcnt.toNat = (bits.length + 7) / 8
  padbits : t.padbits.toNat = (8 - bits.length % 8) % 8
  bitcnt  : t.encBitcnt.toNat = bits.length % 2 ^ 32
  stored  : t.storedBits = bits ++ List.replicate t.padbits.toNat false

/-- ENC_FLUSH with room pads what is packed (R212). -/
theorem Packs.exec_encFlush {s t : State} {bits : List Bool} (h : Packs s bits t) (hw : Memory.wf s.out = true)
    (hroom : (bits.length + 7) / 8 ≤ s.outDepth) : ∃ u, exec .encFlush t = .next u ∧ Padded bits u := by
  obtain ⟨-, hflush⟩ := encFlushPadsTheLastByte
  obtain ⟨-, haligned, -, hpadded⟩ := hflush t
  obtain ⟨hwt, hpacked⟩ := h.out hw
  have hcount := h.count
  have hdepth := s.outDepth_le
  by_cases hn : t.accN = 0#3
  · have hnat : t.accN.toNat = 0 := congrArg BitVec.toNat hn
    have hnone : t.pendingBits = [] := by rw [State.pendingBits, hnat]; rfl
    rw [State.packedBits, hnone, List.append_nil] at hpacked
    refine ⟨_, haligned h.mode hn, h.err, rfl, ?_, ?_, h.bitcnt, hpacked.trans (List.append_nil _).symm⟩
    · exact show t.outcnt.toNat = _ by omega
    · exact show 0 = _ by omega
  · have hlt := t.accN.isLt
    have hpos : t.accN.toNat ≠ 0 := fun hz => hn (BitVec.eq_of_toNat_eq hz)
    obtain ⟨u, hexec, hbyte, hkeep, hpad, heq⟩ := hpadded h.mode hn (by rw [h.outDepth_eq]; omega) hwt
    have hcnt : u.outcnt.toNat = t.outcnt.toNat + 1 := by
      rw [heq]
      exact show (t.outcnt + 1#17).toNat = _ by bv_omega
    have hlast : bitsOf 8 (u.outByte t.outcnt.toNat).toNat = t.pendingBits ++ List.replicate u.padbits.toNat false := by
      have hsum : t.accN.toNat + (8 - t.accN.toNat) = 8 := by omega
      have hbits := bitsOf_mul_two_pow t.accN.toNat (8 - t.accN.toNat) t.acc.toNat
      rw [hsum, ← bitsOf_mod_two_pow] at hbits
      rw [hbyte, hpad]
      exact hbits
    refine ⟨u, hexec, ?_⟩
    constructor
    case err => rw [heq]; exact h.err
    case mode => rw [heq]
    case outcnt => omega
    case padbits => omega
    case bitcnt => rw [heq]; exact h.bitcnt
    case stored => rw [storedBits_of_store hcnt rfl hkeep, hlast, ← List.append_assoc, ← State.packedBits, hpacked]

/-- ENC_FLUSH without room takes E_OUTFULL: some bit is pending, as the whole bytes fit (R212). -/
theorem Packs.exec_encFlush_outfull {s t : State} {bits : List Bool} (h : Packs s bits t)
    (hfull : s.outDepth < (bits.length + 7) / 8) : exec .encFlush t = .next (t.raise .outfull) := by
  obtain ⟨-, hflush⟩ := encFlushPadsTheLastByte
  obtain ⟨-, -, hraise, -⟩ := hflush t
  have hcount := h.count
  have hroom := h.room
  have hlt := t.accN.isLt
  have hpos : t.accN ≠ 0#3 := by
    intro hn
    have hnat : t.accN.toNat = 0 := congrArg BitVec.toNat hn
    omega
  exact hraise h.mode hpos (by rw [h.outDepth_eq]; omega)

/-! ## The encoding of a text (R214, R215) -/

/-- With no error and nothing in flight, a command whose core step ends in t leaves t, with nothing in flight (R261, R262). -/
theorem issue_of_exec {s t : State} {i : Instr} (hi : i ≠ .reset) (he : s.err = false) (hb : s.busy = false)
    (h : exec i (s.latch (encode i)) = .next t) : issue s i = some t ∧ t.busy = false := by
  refine ⟨by rw [issue_eq_exec hi he hb, h]; rfl, ?_⟩
  rw [exec_frame hi h]

/-- ENC_START, issued between commands in a state with codes. -/
theorem issue_encStart_packs {s : State} (he : s.err = false) (hb : s.busy = false) (hc : s.codeValid = true)
    (hm : s.mode = .idle) : ∃ t, issue s .encStart = some t ∧ t.busy = false ∧ Packs s [] t := by
  obtain ⟨t, hexec, h⟩ := exec_encStart_packs (s := s.latch (encode .encStart)) he hc hm
  obtain ⟨hissue, hbusy⟩ := issue_of_exec (by decide) he hb hexec
  exact ⟨t, hissue, hbusy, h.err, h.errcode, h.mode, h.code, h.params, h.count, h.room, h.bitcnt, h.out⟩

/-- The bit string of a text with one symbol more in front. -/
theorem textBits_cons (s : State) (b : Byte) (text : List Byte) :
    textBits s (b :: text) = codeString (s.codeAt b) ++ textBits s text := List.flatMap_cons

/-- ENC_SYM of one symbol after another, as long as OUT has room for all of them. -/
theorem Packs.issueAll_encSym {s t : State} {bits : List Bool} {text : List Byte} (h : Packs s bits t)
    (hb : t.busy = false) (hv : ∀ b ∈ text, (s.codeAt b).valid = true)
    (hroom : (bits ++ textBits s text).length / 8 ≤ s.outDepth) :
    ∃ u, issueAll t (text.map Instr.encSym) = some u ∧ u.busy = false ∧ Packs s (bits ++ textBits s text) u := by
  induction text generalizing bits t with
  | nil => exact ⟨t, rfl, hb, (List.append_nil bits).symm ▸ h⟩
  | cons b text ih =>
    obtain ⟨hvb, hvtext⟩ := List.forall_mem_cons.mp hv
    rw [textBits_cons, ← List.append_assoc] at hroom ⊢
    have hprefix : (bits ++ codeString (s.codeAt b)).length ≤ (bits ++ codeString (s.codeAt b) ++ textBits s text).length :=
      (List.sublist_append_left _ _).length_le
    obtain ⟨u, hexec, hu⟩ := (h.latch (encode (.encSym b))).exec_encSym hvb (by omega)
    obtain ⟨hissue, hbusy⟩ := issue_of_exec (by simp) h.err hb hexec
    obtain ⟨v, hall, hv⟩ := ih hu hbusy hvtext hroom
    exact ⟨v, (issueAll_cons hissue _).trans hall, hv⟩

/-- Settles O38: each ENC_SYM packs the code of its symbol behind the bits before, and ENC_FLUSH pads them. -/
theorem encodingWritesTheBitString : Obligations.EncodingWritesTheBitString := by
  intro s text he hb hc hm hout hv hroom
  obtain ⟨-, hw, -⟩ := hout
  obtain ⟨t, hstart, hbusy, ht⟩ := issue_encStart_packs he hb hc hm
  obtain ⟨u, hsyms, hbusy', hu⟩ := ht.issueAll_encSym hbusy hv (by rw [List.nil_append]; omega)
  obtain ⟨v, hexec, h⟩ := (hu.latch (encode .encFlush)).exec_encFlush hw hroom
  obtain ⟨hflush, -⟩ := issue_of_exec (by decide) hu.err hbusy' hexec
  refine ⟨v, ?_, h.err, h.mode, h.outcnt, h.padbits, h.bitcnt, h.stored⟩
  rw [encodeCommands, issueAll_cons hstart, issueAll_append hsyms, issueAll_cons hflush, issueAll]

/-- A command that takes an error sends the rest of a run of commands without RESET into FAULT, where it is discarded (R266). -/
theorem issueAll_of_raise {s : State} {i : Instr} {is : List Instr} {e : ErrCode} (hi : i ≠ .reset) (his : .reset ∉ is)
    (he : s.err = false) (hb : s.busy = false) (hexec : exec i (s.latch (encode i)) = .next ((s.latch (encode i)).raise e)) :
    issueAll s (i :: is) = some ((s.latch (encode i)).raise e) := by
  obtain ⟨hissue, hbusy⟩ := issue_of_exec hi he hb hexec
  rw [issueAll_cons hissue, issueAll_fault his rfl hbusy]

/-- The rest of an encoding whose bytes do not fit ends in FAULT with E_OUTFULL, at the first symbol whose code does not fit, or
else at the padding (R215). -/
theorem Packs.issueAll_outfull {s t : State} {bits : List Bool} {text : List Byte} (h : Packs s bits t)
    (hb : t.busy = false) (hcode : s.errcode = none) (hv : ∀ b ∈ text, (s.codeAt b).valid = true)
    (hfull : s.outDepth < ((bits ++ textBits s text).length + 7) / 8) :
    ∃ u, issueAll t (text.map Instr.encSym ++ [.encFlush]) = some u ∧ u.err = true ∧ u.errcode = some .outfull := by
  have hraised (w : Word) : ((t.latch w).raise .outfull).errcode = some .outfull := if_pos (h.errcode.trans hcode)
  induction text generalizing bits t with
  | nil =>
    have hexec := (h.latch (encode .encFlush)).exec_encFlush_outfull (List.append_nil bits ▸ hfull)
    exact ⟨_, issueAll_of_raise (by decide) (by simp) h.err hb hexec, rfl, hraised _⟩
  | cons b text ih =>
    obtain ⟨hvb, hvtext⟩ := List.forall_mem_cons.mp hv
    rw [textBits_cons, ← List.append_assoc] at hfull
    have hl := h.latch (encode (.encSym b))
    by_cases hroom : (bits ++ codeString (s.codeAt b)).length / 8 ≤ s.outDepth
    · obtain ⟨u, hexec, hu⟩ := hl.exec_encSym hvb hroom
      obtain ⟨hissue, hbusy⟩ := issue_of_exec (by simp) h.err hb hexec
      obtain ⟨v, hall, hv⟩ := ih hu hbusy hvtext hfull fun w => if_pos (hu.errcode.trans hcode)
      exact ⟨v, (issueAll_cons hissue _).trans hall, hv⟩
    · have hexec := hl.exec_encSym_outfull hvb (Nat.lt_of_not_le hroom)
      exact ⟨_, issueAll_of_raise (by simp) (by simp) h.err hb hexec, rfl, hraised _⟩

/-- Settles O39: from ENC_START on, `Packs` holds until a command finds no room. -/
theorem encodingWithoutRoomFaults : Obligations.EncodingWithoutRoomFaults := by
  intro s text he hcode hb hc hm hv hfull
  obtain ⟨t, hstart, hbusy, ht⟩ := issue_encStart_packs he hb hc hm
  obtain ⟨u, hall, hu⟩ := ht.issueAll_outfull hbusy hcode hv hfull
  exact ⟨u, (issueAll_cons hstart _).trans hall, hu⟩

end Sys2Proof.Machine

/-! # The decoder (spec/45_decoder.md): the tree-walk step, the three commands, and the decoding of an encoded text -/

namespace Sys2Proof.Machine

/-! ## DEC_START and DEC_END (R230, R236) -/

/-- DEC_START with a tree and MODE = IDLE (R230). -/
theorem exec_decStart {s : State} (hv : s.treeValid = true) (hm : s.mode = .idle) : exec .decStart s = .next { s with
    mode := .dec, decPartial := false, outcnt := 0#17, decBitcnt := 0#32, cursor := s.root, busy := false, done := true } :=
  exec_success (i := .decStart) (by decide) (by simp [precondition, hv, hm]) rfl

/-- Settles O40: the precondition decides between E_SEQ and the body, which cannot fail. -/
theorem decStartBeginsADecoding : Obligations.DecStartBeginsADecoding :=
  ⟨decodeOfEncodeIsTheCommand .decStart, fun _ =>
    ⟨fun hnot => exec_badSeq (by decide) (by simpa [precondition] using hnot), exec_decStart⟩⟩

/-- DEC_END while decoding (R236). -/
theorem exec_decEnd {s : State} (hm : s.mode = .dec) : exec .decEnd s = .next { s with
    decPartial := if s.cursor = s.root then false else true, mode := .idle, busy := false, done := true } := by
  have hpartial : decide (s.cursor ≠ s.root) = if s.cursor = s.root then false else true := by
    by_cases h : s.cursor = s.root <;> simp [h]
  rw [← hpartial]
  exact exec_success (i := .decEnd) (by decide) (by simp [precondition, hm]) rfl

/-- Settles O43: the precondition decides between E_SEQ and the body, which cannot fail. -/
theorem decEndReportsAPartialCode : Obligations.DecEndReportsAPartialCode :=
  ⟨decodeOfEncodeIsTheCommand .decEnd, fun _ =>
    ⟨fun hm => exec_badSeq (by decide) (by simp [precondition, hm]), exec_decEnd⟩⟩

/-! ## One bit (R231) -/

/-- No bit is walked in the empty tree (R231). -/
theorem treeStep_empty {s : State} (hroot : s.root = NIL) (cur : NodeIdx) (b : Bool) :
    treeStep s cur b = .error .badcode := if_pos hroot

section
variable {s : State} {cur : NodeIdx} (hroot : s.root ≠ NIL)
include hroot

/-- At a leaf, 0 is the code of ROOT's symbol and 1 is no code (R231). -/
theorem treeStep_at_leaf (hleaf : (s.nodeAt cur).leaf = true) (b : Bool) :
    treeStep s cur b = if b then .error .badcode else .ok (s.root, some (s.nodeAt s.root).sym) := by
  rw [treeStep, if_neg hroot, if_pos hleaf]

/-- From an internal node to a leaf: its symbol, and back to ROOT (R231). -/
theorem treeStep_to_leaf (hcur : (s.nodeAt cur).leaf = false) {b : Bool}
    (hleaf : (s.nodeAt (childOf (s.nodeAt cur) b)).leaf = true) :
    treeStep s cur b = .ok (s.root, some (s.nodeAt (childOf (s.nodeAt cur) b)).sym) := by
  rw [treeStep, if_neg hroot, if_neg (by simp [hcur]), if_pos hleaf]

/-- From an internal node to an internal node: no symbol (R231). -/
theorem treeStep_to_inner (hcur : (s.nodeAt cur).leaf = false) {b : Bool}
    (hinner : (s.nodeAt (childOf (s.nodeAt cur) b)).leaf = false) :
    treeStep s cur b = .ok (childOf (s.nodeAt cur) b, none) := by
  rw [treeStep, if_neg hroot, if_neg (by simp [hcur]), if_neg (by simp [hinner])]

end

/-- Settles O41: the cases of Step, by the node under the cursor and the child the bit leads to. -/
theorem treeStepFollowsOneBit : Obligations.TreeStepFollowsOneBit := by
  refine fun s cur b => ⟨fun hroot => treeStep_empty hroot cur b, fun hroot hleaf => ?leaf,
    fun hroot hcur nxt hnxt => ?inner⟩
  case leaf => exact ⟨treeStep_at_leaf hroot hleaf false, treeStep_at_leaf hroot hleaf true⟩
  case inner =>
    have hchild : nxt = childOf (s.nodeAt cur) b := hnxt
    subst hchild
    exact ⟨treeStep_to_leaf hroot hcur, treeStep_to_inner hroot hcur⟩

/-! ## A bit string (R232) -/

/-- The walk reads ROOT and the node table only. -/
theorem walkBits_congr {s t : State} (hroot : t.root = s.root) (hnode : t.node = s.node) (cur : NodeIdx) (bs : List Bool) :
    walkBits t cur bs = walkBits s cur bs := by
  induction bs generalizing cur with
  | nil => rfl
  | cons b bs ih =>
    have hstep : treeStep t cur b = treeStep s cur b := by
      unfold treeStep State.nodeAt
      rw [hroot, hnode]
    simp only [walkBits, hstep, ih]

/-- A walk goes on from where its first bit leads. -/
theorem walkBits_cons_eq_ok {s : State} {cur c : NodeIdx} {b : Bool} {bs : List Bool} {es : List Byte} :
    walkBits s cur (b :: bs) = .ok (c, es) ↔ ∃ c1 e es1, treeStep s cur b = .ok (c1, e) ∧
      walkBits s c1 bs = .ok (c, es1) ∧ es = e.toList ++ es1 := by
  rw [walkBits]
  cases hstep : treeStep s cur b with
  | error e => simp
  | ok r =>
    obtain ⟨c1, e⟩ := r
    cases hrest : walkBits s c1 bs with
    | error e1 => simp [hrest]
    | ok r1 =>
      obtain ⟨c2, es1⟩ := r1
      simp [hrest, eq_comm]

/-- A walk goes on from where its first part ends. -/
theorem walkBits_append_eq_ok {s : State} {cur c : NodeIdx} {xs ys : List Bool} {es : List Byte} :
    walkBits s cur (xs ++ ys) = .ok (c, es) ↔ ∃ c1 es1 es2, walkBits s cur xs = .ok (c1, es1) ∧
      walkBits s c1 ys = .ok (c, es2) ∧ es = es1 ++ es2 := by
  induction xs generalizing cur es with
  | nil => simp [walkBits]
  | cons b xs ih =>
    simp only [List.cons_append, walkBits_cons_eq_ok, ih]
    constructor
    · rintro ⟨c1, e, es1, hstep, ⟨c2, es2, es3, hxs, hys, rfl⟩, rfl⟩
      exact ⟨c2, _, es3, ⟨c1, e, es2, hstep, hxs, rfl⟩, hys, by rw [List.append_assoc]⟩
    · rintro ⟨c2, _, es3, ⟨c1, e, es2, hstep, hxs, rfl⟩, hys, rfl⟩
      exact ⟨c1, e, _, hstep, ⟨c2, es2, es3, hxs, hys, rfl⟩, by rw [List.append_assoc]⟩

/-! ## Over a tree of two or more leaves (R234) -/

/-- Where no step from a cursor in P raises an error or leaves P, every bit string is walked. -/
theorem exists_walkBits_eq_ok {s : State} {P : NodeIdx → Prop}
    (hstep : ∀ cur b, P cur → ∃ c e, treeStep s cur b = .ok (c, e) ∧ P c) {cur : NodeIdx} (hcur : P cur)
    (bs : List Bool) : ∃ c es, walkBits s cur bs = .ok (c, es) := by
  induction bs generalizing cur with
  | nil => exact ⟨cur, [], rfl⟩
  | cons b bs ih =>
    obtain ⟨c1, e, hfirst, hc1⟩ := hstep cur b hcur
    obtain ⟨c, es, hrest⟩ := ih hc1
    exact ⟨c, e.toList ++ es, walkBits_cons_eq_ok.mpr ⟨c1, e, es, hfirst, hrest, rfl⟩⟩

/-- Node i is an internal node of the tree BUILD made (R72). -/
def InnerNode (s : State) (i : NodeIdx) : Prop := i.toNat < (buildTree s.freq).1.length ∧ (s.nodeAt i).leaf = false

section
variable {s : State} (h : Holds s.node (buildTree s.freq).1)
include h

/-- The nodes from NSYM on are the internal ones (R171, R172). -/
theorem innerNode_iff {i : NodeIdx} :
    InnerNode s i ↔ presentSymbols s.freq ≤ i.toNat ∧ i.toNat < (buildTree s.freq).1.length := by
  have hinv := buildTree_merging h
  have hidx : s.nodeAt i = nodeAt s.node (BitVec.ofNat 9 i.toNat) := by rw [ofNat_toNat_idx, State.nodeAt]
  rw [InnerNode, and_comm, hidx]
  refine and_congr_left fun hlt => ⟨fun hinner => ?_, fun hn => (hinv.merged _ hn hlt).leaf⟩
  by_contra hn
  obtain ⟨sym, -, hnode⟩ := exists_present_of_lt h (Nat.lt_of_not_le hn)
  rw [hnode] at hinner
  cases hinner

/-- The children of an internal node are nodes of the tree (R176). -/
theorem InnerNode.childOf_lt {i : NodeIdx} (hi : InnerNode s i) (b : Bool) :
    (childOf (s.nodeAt i) b).toNat < (buildTree s.freq).1.length := by
  obtain ⟨hn, hlt⟩ := (innerNode_iff h).mp hi
  have hchild := ((buildTree_merging h).merged _ hn hlt).childOf_lt b
  rw [ofNat_toNat_idx] at hchild
  exact hchild.trans hlt

/-- From an internal node, Step leads to an internal node: the child, or ROOT behind a leaf (R231). -/
theorem InnerNode.treeStep_eq_ok {i : NodeIdx} (hi : InnerNode s i) (hnil : s.root ≠ NIL) (hroot : InnerNode s s.root)
    (b : Bool) : ∃ c e, treeStep s i b = .ok (c, e) ∧ InnerNode s c := by
  cases hchild : (s.nodeAt (childOf (s.nodeAt i) b)).leaf with
  | true => exact ⟨_, _, treeStep_to_leaf hnil hi.2 hchild, hroot⟩
  | false => exact ⟨_, _, treeStep_to_inner hnil hi.2 hchild, hi.childOf_lt h b, hchild⟩

/-- With two or more symbols ROOT is an internal node (R172). -/
theorem innerNode_root (hroot : s.root = rootOf (buildTree s.freq).2) (hn : 2 ≤ presentSymbols s.freq) :
    s.root ≠ NIL ∧ InnerNode s s.root := by
  obtain ⟨e, he, hlast⟩ := rootOf_buildTree (by omega) h
  obtain ⟨hlen, -⟩ := buildTree_length (f := s.freq) (by omega)
  have hle := presentSymbols_le s.freq
  have hnat : s.root.toNat = e.idx := by
    rw [hroot, he]
    exact toNat_ofNat_idx (by omega)
  refine ⟨fun hnil => ?_, (innerNode_iff h).mpr (by omega)⟩
  have hNIL : s.root.toNat = 511 := congrArg BitVec.toNat hnil
  omega

end

/-- Settles O44: CURSOR is an internal node (R72), and Step leads from internal nodes to internal nodes. -/
theorem everyBitStringWalksATree : Obligations.EveryBitStringWalksATree := by
  intro s bits hinv hm hn
  obtain ⟨-, -, hphase⟩ := hinv.phase
  have hv := hphase hm
  have hholds := hinv.tree.holds hv
  obtain ⟨hroot, hnodes, -⟩ := hinv.tree hv
  obtain ⟨-, hdec⟩ := hinv.dec hm
  obtain ⟨hlow, hhigh⟩ := hdec hn
  obtain ⟨hnsym, -⟩ := hinv.freq
  rw [hnsym] at hn hlow
  rw [hnodes] at hhigh
  obtain ⟨hnil, hrootInner⟩ := innerNode_root hholds hroot hn
  exact exists_walkBits_eq_ok (fun _ b hi => hi.treeStep_eq_ok hholds hnil hrootInner b)
    ((innerNode_iff hholds).mpr ⟨hlow, hhigh⟩) bits

/-! ## DEC_BYTE (R232) -/

/-- The body of DEC_BYTE when the walk raises an error (R232). -/
theorem decByteBody_of_walk_error {s : State} {byte : Byte} {nb : BitVec 4} {e : ErrCode} (hnb : nb.toNat ≤ 8)
    (hwalk : walkBits s s.cursor (streamBits byte nb.toNat) = .error e) : decByteBody byte nb s = .error e := by
  rw [decByteBody, if_neg (by simp [nbTooLarge, hnb]), hwalk]

/-- The body of DEC_BYTE when the walk succeeds (R232). -/
theorem decByteBody_of_walk {s : State} {byte : Byte} {nb : BitVec 4} {cur : NodeIdx} {es : List Byte} (hnb : nb.toNat ≤ 8)
    (hwalk : walkBits s s.cursor (streamBits byte nb.toNat) = .ok (cur, es)) :
    decByteBody byte nb s = if s.outDepth < s.outcnt.toNat + es.length then .error .outfull
      else .ok { s.emitAll es with cursor := cur, decBitcnt := s.decBitcnt + nb.setWidth 32 } := by
  rw [decByteBody, if_neg (by simp [nbTooLarge, hnb]), hwalk]

/-- DEC_BYTE with room for the symbols of its walk (R232). -/
theorem exec_decByte {s : State} {byte : Byte} {nb : BitVec 4} {cur : NodeIdx} {es : List Byte} (hm : s.mode = .dec)
    (hnb : nb.toNat ≤ 8) (hwalk : walkBits s s.cursor (streamBits byte nb.toNat) = .ok (cur, es))
    (hroom : s.outcnt.toNat + es.length ≤ s.outDepth) : exec (.decByte byte nb) s = .next { s.emitAll es with
      cursor := cur, decBitcnt := s.decBitcnt + nb.setWidth 32, busy := false, done := true } :=
  exec_success (i := .decByte byte nb) (by simp) (by simp [precondition, hm])
    ((decByteBody_of_walk hnb hwalk).trans (if_neg (Nat.not_lt.mpr hroom)))

/-- Settles O42: the body's conditions in their order, and the bytes `emitAll` stores. -/
theorem decByteEmitsTheWalkedSymbols : Obligations.DecByteEmitsTheWalkedSymbols := by
  refine fun s byte nb => ⟨?word, fun hm => ?seq, fun hm hnb => ?badarg, fun hm hnb bits hbits => ?walk⟩
  case word =>
    rw [BitVec.or_assoc]
    exact decodeOfEncodeIsTheCommand (.decByte byte nb)
  case seq => exact exec_badSeq (by simp) (by simp [precondition, hm])
  case badarg =>
    have hlarge : nbTooLarge nb = true := decide_eq_true hnb
    exact exec_failure (by simp) (by simp [precondition, hm]) (if_pos hlarge)
  case walk =>
    have hpre : precondition (.decByte byte nb) s = true := by simp [precondition, hm]
    have hstream : bits = streamBits byte nb.toNat := hbits
    subst hstream
    refine ⟨fun e hwalk => ?badcode, fun cur es hwalk => ⟨fun hfull => ?outfull, fun hroom hw => ?emitted⟩⟩
    case badcode =>
      obtain rfl := walkBits_err hwalk
      exact ⟨rfl, exec_failure (by simp) hpre (decByteBody_of_walk_error hnb hwalk)⟩
    case outfull => exact exec_failure (by simp) hpre ((decByteBody_of_walk hnb hwalk).trans (if_pos hfull))
    case emitted =>
      obtain ⟨hcnt, hbytes, -⟩ := State.emitAll_out hw es (by have := s.outDepth_le; omega)
      refine ⟨_, exec_decByte hm hnb hwalk hroom, hcnt, hbytes, ?_⟩
      rw [State.emitAll_eq]


/-! ## What the commands of an encoding and a decoding keep (R210-R236) -/

/-- The commands of the encoder and the decoder (R210-R236). -/
def IsCoding : Instr → Prop
  | .encStart | .encSym _ | .encFlush | .decStart | .decByte _ _ | .decEnd => True
  | .nop | .reset | .freqClr | .freqAdd _ | .freqSet _ | .build | .gen => False

/-- A command keeps the canonical form of OUT (log entry 17). -/
theorem exec_wf_out {i : Instr} {s t : State} (hw : Memory.wf s.out = true) (h : exec i s = .next t) :
    Memory.wf t.out = true := by
  by_cases hi : StoresBytes i
  · rcases exec_cases h with ⟨-, rfl⟩ | ⟨-, -, s1, hbody, rfl⟩ | ⟨-, e, -, rfl⟩
    · exact hw
    · have hinner := (require_ok hbody).2
      rcases hi with ⟨sym, rfl⟩ | rfl | ⟨byte, nb, rfl⟩
      · obtain ⟨-, -, rfl⟩ := encSymBody_ok hinner
        exact State.wf_pushBits hw _
      · rcases encFlushBody_ok hinner with ⟨-, rfl⟩ | ⟨-, -, rfl⟩
        · exact hw
        · exact State.wf_emit hw _
      · obtain ⟨-, cur, es, -, -, rfl⟩ := decByteBody_ok hinner
        exact State.wf_emitAll hw es
    · exact hw
  · rwa [exec_out_eq hi h]

/-- t is between two commands, has the tree and the parameters of s, and OUT in its canonical form. -/
structure SameTree (s t : State) : Prop where
  busy      : t.busy = false
  treeValid : t.treeValid = s.treeValid
  root      : t.root = s.root
  node      : t.node = s.node
  params    : t.params = s.params
  out       : Memory.wf t.out = true

/-- Every command of the encoder and the decoder keeps the tree. -/
theorem SameTree.of_issue {s t u : State} {i : Instr} (h : SameTree s t) (hu : issue t i = some u) (hi : IsCoding i) :
    SameTree s u := by
  have hreset : i ≠ .reset := by
    rintro rfl
    exact hi
  cases he : t.err with
  | true =>
    rw [issue_fault hreset he h.busy] at hu
    cases hu
    exact h
  | false =>
    obtain ⟨v, hexec⟩ := exec_next i (t.latch (encode i))
    obtain ⟨hv, hbusy⟩ := issue_of_exec hreset he h.busy hexec
    obtain rfl : v = u := Option.some.inj (hv.symm.trans hu)
    have hframe := exec_frame hreset hexec
    have hkept : v.treeValid = t.treeValid ∧ v.root = t.root ∧ v.node = t.node ∧ v.params = t.params := by
      cases i with
      | nop | reset | freqClr | freqAdd | freqSet | build | gen => exact hi.elim
      | encStart | encSym | encFlush | decStart | decByte | decEnd => rw [hframe]; exact ⟨rfl, rfl, rfl, rfl⟩
    obtain ⟨hvalid, hroot, hnode, hparams⟩ := hkept
    exact ⟨hbusy, hvalid.trans h.treeValid, hroot.trans h.root, hnode.trans h.node, hparams.trans h.params,
      exec_wf_out (s := t.latch (encode i)) h.out hexec⟩

/-- So does a run of them. -/
theorem SameTree.of_issueAll {s t u : State} {is : List Instr} (h : SameTree s t) (hu : issueAll t is = some u)
    (his : ∀ i ∈ is, IsCoding i) : SameTree s u := by
  induction is generalizing t with
  | nil => cases hu; exact h
  | cons i is ih =>
    obtain ⟨hi, his⟩ := List.forall_mem_cons.mp his
    cases hv : issue t i with
    | none => rw [issueAll, hv] at hu; cases hu
    | some v =>
      rw [issueAll_cons hv] at hu
      exact ih (h.of_issue hv hi) hu his

/-- The commands that encode a text are the encoder's. -/
theorem isCoding_of_mem_encodeCommands {text : List Byte} {i : Instr} (hi : i ∈ encodeCommands text) : IsCoding i := by
  simp only [encodeCommands, List.mem_cons, List.mem_append, List.mem_map, List.not_mem_nil, or_false] at hi
  rcases hi with rfl | ⟨b, -, rfl⟩ | rfl <;> trivial

/-! ## The room an encoding without error had (R215) -/

/-- A run of commands that ends without error does not begin with a command that takes one: it would stay in FAULT. -/
theorem exec_ne_raise_of_issueAll {t u : State} {i : Instr} {is : List Instr} (hrun : issueAll t (i :: is) = some u)
    (herr : u.err = false) (hi : i ≠ .reset) (his : .reset ∉ is) (he : t.err = false) (hb : t.busy = false) (e : ErrCode) :
    exec i (t.latch (encode i)) ≠ .next ((t.latch (encode i)).raise e) := by
  intro hraise
  rw [issueAll_of_raise hi his he hb hraise] at hrun
  cases hrun
  cases herr

/-- When the rest of an encoding ends without error, its bytes fit: else a symbol or the padding takes E_OUTFULL. -/
theorem Packs.room_of_issueAll {s t u : State} {bits : List Bool} {text : List Byte} (h : Packs s bits t)
    (hb : t.busy = false) (hv : ∀ b ∈ text, (s.codeAt b).valid = true)
    (hrun : issueAll t (text.map Instr.encSym ++ [.encFlush]) = some u) (herr : u.err = false) :
    ((bits ++ textBits s text).length + 7) / 8 ≤ s.outDepth := by
  induction text generalizing bits t with
  | nil =>
    have hno := exec_ne_raise_of_issueAll hrun herr (by decide) (by simp) h.err hb .outfull
    by_contra hfull
    rw [textBits, List.flatMap_nil, List.append_nil] at hfull
    exact hno ((h.latch _).exec_encFlush_outfull (Nat.lt_of_not_le hfull))
  | cons b text ih =>
    obtain ⟨hvb, hvtext⟩ := List.forall_mem_cons.mp hv
    have hl := h.latch (encode (.encSym b))
    have hno := exec_ne_raise_of_issueAll hrun herr (by simp) (by simp) h.err hb .outfull
    have hroom : (bits ++ codeString (s.codeAt b)).length / 8 ≤ s.outDepth := by
      by_contra hfull
      exact hno (hl.exec_encSym_outfull hvb (Nat.lt_of_not_le hfull))
    obtain ⟨v, hexec, hpacks⟩ := hl.exec_encSym hvb hroom
    obtain ⟨hissue, hbusy⟩ := issue_of_exec (by simp) h.err hb hexec
    rw [List.map_cons, List.cons_append, issueAll_cons hissue] at hrun
    rw [textBits_cons, ← List.append_assoc]
    exact ih hpacks hbusy hvtext hrun

/-! ## The walk of an encoded text (R231, R237) -/

/-- The path from an internal node to a leaf yields the leaf's symbol and ends at ROOT. -/
theorem walkBits_leafPath {s : State} (hroot : s.root ≠ NIL) {i : NodeIdx} {p : List Bool} (hi : (s.nodeAt i).leaf = false)
    (hp : LeafPath s.node i p) : walkBits s i p = .ok (s.root, [(s.nodeAt (followPath s.node i p)).sym]) := by
  induction p generalizing i with
  | nil =>
    have hleaf : (s.nodeAt i).leaf = true := hp
    exact absurd (hleaf.symm.trans hi) (by decide)
  | cons b p ih =>
    obtain ⟨-, hp⟩ := hp
    rw [walkBits_cons_eq_ok]
    cases hchild : (s.nodeAt (childOf (s.nodeAt i) b)).leaf with
    | true =>
      obtain rfl := leafPath_of_leaf hchild hp
      exact ⟨_, _, [], treeStep_to_leaf hroot hi hchild, rfl, rfl⟩
    | false => exact ⟨_, _, _, treeStep_to_inner hroot hi hchild, ih hchild hp, rfl⟩

/-- The code of a symbol yields the symbol and ends at ROOT, on the degenerate tree too (R192, R231). -/
theorem CodeOf.walkBits_eq {s : State} {sym : Byte} {p : List Bool} (h : CodeOf s sym p) :
    walkBits s s.root p = .ok (s.root, [sym]) := by
  have hroot := h.1
  cases hi : (s.nodeAt s.root).leaf with
  | true =>
    obtain ⟨rfl, rfl⟩ := (codeOf_iff_of_leaf hroot hi).mp h
    exact walkBits_cons_eq_ok.mpr ⟨_, _, [], treeStep_at_leaf hroot hi false, rfl, rfl⟩
  | false =>
    obtain ⟨hp, rfl⟩ := (codeOf_iff_of_inner hroot hi).mp h
    exact walkBits_leafPath hroot hi hp

/-- The bit string of a text yields the text and ends at ROOT. -/
theorem walkBits_textBits {s : State} (hmatch : CodesMatchTree s) {text : List Byte}
    (hv : ∀ b ∈ text, (s.codeAt b).valid = true) : walkBits s s.root (textBits s text) = .ok (s.root, text) := by
  induction text with
  | nil => rfl
  | cons b text ih =>
    obtain ⟨hvb, hvtext⟩ := List.forall_mem_cons.mp hv
    rw [textBits_cons, walkBits_append_eq_ok]
    exact ⟨s.root, [b], text, (hmatch b hvb).walkBits_eq, ih hvtext, rfl⟩

/-! ## The decoding of a stream (R232, R237) -/

/-- `emitAll` appends its bytes to those below OUTCNT. -/
theorem outputBytes_emitAll {s : State} (hw : Memory.wf s.out = true) {bs : List Byte}
    (hroom : s.outcnt.toNat + bs.length ≤ s.outDepth) : outputBytes (s.emitAll bs) = outputBytes s ++ bs := by
  obtain ⟨hcnt, hnew, hold⟩ := State.emitAll_out hw bs (by have := s.outDepth_le; omega)
  rw [outputBytes, hcnt, List.range_add, List.map_append, List.map_map, outputBytes]
  congr 1
  · exact List.map_congr_left fun j hj => hold j (.inl (List.mem_range.mp hj))
  · refine List.ext_getElem (by simp) fun j hj hj' => ?_
    simp [hnew j _ (List.getElem?_eq_getElem hj')]

/-- OUTCNT counts the bytes of the result (R45, R56). -/
theorem outputBytes_length (s : State) : (outputBytes s).length = s.outcnt.toNat := by simp [outputBytes]

/-- In the tree of s, between the DEC_START and the DEC_END of a decoding: the symbols es have been emitted so far. -/
structure Decoded (s : State) (es : List Byte) (t : State) : Prop where
  err  : t.err = false
  mode : t.mode = .dec
  tree : SameTree s t
  out  : outputBytes t = es

/-- DEC_START, issued between commands in a state with a tree, has emitted nothing (R230). -/
theorem SameTree.issue_decStart {s t : State} (h : SameTree s t) (he : t.err = false) (hv : s.treeValid = true)
    (hm : t.mode = .idle) : ∃ u, issue t .decStart = some u ∧ u.cursor = s.root ∧ Decoded s [] u := by
  have hexec := exec_decStart (s := t.latch (encode .decStart)) (h.treeValid.trans hv) hm
  obtain ⟨hissue, -⟩ := issue_of_exec (by decide) he h.busy hexec
  exact ⟨_, hissue, h.root, he, rfl, h.of_issue hissue trivial, rfl⟩

/-- DEC_BYTE with room emits the symbols of its walk (R232). -/
theorem Decoded.issue_decByte {s t : State} {es es' : List Byte} {byte : Byte} {nb : BitVec 4} {cur : NodeIdx}
    (h : Decoded s es t) (hnb : nb.toNat ≤ 8) (hwalk : walkBits s t.cursor (streamBits byte nb.toNat) = .ok (cur, es'))
    (hroom : (es ++ es').length ≤ s.outDepth) :
    ∃ u, issue t (.decByte byte nb) = some u ∧ u.cursor = cur ∧ Decoded s (es ++ es') u := by
  have hdepth : t.outDepth = s.outDepth := congrArg Params.outDepth h.tree.params
  have hfits : t.outcnt.toNat + es'.length ≤ t.outDepth := by
    rw [hdepth, ← outputBytes_length, h.out, ← List.length_append]
    exact hroom
  have hlatched : walkBits (t.latch (encode (.decByte byte nb))) t.cursor (streamBits byte nb.toNat) = .ok (cur, es') :=
    (walkBits_congr (t := t.latch _) h.tree.root h.tree.node _ _).trans hwalk
  have hexec := exec_decByte (s := t.latch _) h.mode hnb hlatched hfits
  obtain ⟨hissue, -⟩ := issue_of_exec (by simp) h.err h.tree.busy hexec
  refine ⟨_, hissue, rfl, ?_, ?_, h.tree.of_issue hissue trivial, ?_⟩
  · exact (State.emitAll_err _ es').trans h.err
  · exact (State.emitAll_mode _ es').trans h.mode
  · rw [← h.out]
    exact outputBytes_emitAll (s := t.latch (encode (.decByte byte nb))) h.tree.out hfits

/-- DEC_END at ROOT ends the decoding with no partial code (R236). -/
theorem Decoded.issue_decEnd {s t : State} {es : List Byte} (h : Decoded s es t) (hcur : t.cursor = s.root) :
    ∃ u, issue t .decEnd = some u ∧ u.err = false ∧ outputBytes u = es ∧ u.decPartial = false ∧ u.mode = .idle := by
  have hexec := exec_decEnd (s := t.latch (encode .decEnd)) h.mode
  obtain ⟨hissue, -⟩ := issue_of_exec (by decide) h.err h.tree.busy hexec
  exact ⟨_, hissue, h.err, h.out, if_pos (hcur.trans h.tree.root.symm), rfl⟩

/-- The first bits of a byte that is not consumed whole (R232). -/
theorem streamBits_eq_take (byte : Byte) {n : Nat} (hn : n ≤ 8) : streamBits byte n = (streamBits byte 8).take n := by
  rw [streamBits, streamBits, ← List.map_take, List.take_range, Nat.min_eq_left hn]

/-- The DEC_BYTE commands of a stream that holds some bits and p padding zeros walk those bits (R237). -/
theorem Decoded.issueAll_stream {s t : State} {es es' : List Byte} {cur : NodeIdx} {p : BitVec 3} {stream : List Byte}
    {bits : List Bool} (h : Decoded s es t)
    (hbits : stream.flatMap (fun b => streamBits b 8) = bits ++ List.replicate p.toNat false)
    (hwalk : walkBits s t.cursor bits = .ok (cur, es')) (hroom : (es ++ es').length ≤ s.outDepth) :
    ∃ u, issueAll t (streamCommands p stream) = some u ∧ u.cursor = cur ∧ Decoded s (es ++ es') u := by
  have hp := p.isLt
  induction stream using streamCommands.induct generalizing t bits es es' with
  | case1 =>
    obtain ⟨rfl, -⟩ := List.append_eq_nil_iff.mp hbits.symm
    cases hwalk
    exact ⟨t, rfl, rfl, (List.append_nil es).symm ▸ h⟩
  | case2 b =>
    rw [List.flatMap_singleton] at hbits
    have hlen := congrArg List.length hbits
    rw [streamBits_eight, bitsOf_length, List.length_append, List.length_replicate] at hlen
    have hnb : (8#4 - p.setWidth 4 : BitVec 4).toNat = bits.length := by bv_omega
    have hfirst : bits = streamBits b (8#4 - p.setWidth 4 : BitVec 4).toNat := by
      rw [hnb, streamBits_eq_take b (by omega), hbits, List.take_left]
    obtain ⟨u, hissue, hu⟩ := h.issue_decByte (by omega) (hfirst ▸ hwalk) hroom
    exact ⟨u, issueAll_cons hissue [], hu⟩
  | case3 b c stream ih =>
    rw [List.flatMap_cons] at hbits
    rcases List.append_eq_append_iff.mp hbits with ⟨rest, rfl, hrest⟩ | ⟨_, -, hshort⟩
    · obtain ⟨c1, es1, es2, hbyte, hwalk, rfl⟩ := walkBits_append_eq_ok.mp hwalk
      rw [← List.append_assoc] at hroom ⊢
      obtain ⟨u, hissue, rfl, hu⟩ := h.issue_decByte (nb := 8#4) (by decide) hbyte
        (by rw [List.length_append] at hroom; omega)
      obtain ⟨v, hall, hv⟩ := ih hu hrest hwalk hroom
      exact ⟨v, (issueAll_cons hissue _).trans hall, hv⟩
    · have hlen := congrArg List.length hshort
      simp [streamBits_eight, List.flatMap_cons] at hlen
      omega

/-- Settles O45: OUT holds the bit string of the text with PADBITS zeros behind it, and each code in it leads from ROOT to the
leaf of its symbol. -/
theorem decodingInvertsEncoding : Obligations.DecodingInvertsEncoding := by
  intro s t text he hb hvalid hc hm hout hmatch hv hlen hencode herr
  obtain ⟨t1, hstart, hbusy, hpacks⟩ := issue_encStart_packs he hb hc hm
  have hroom := hpacks.room_of_issueAll hbusy hv ((issueAll_cons hstart _).symm.trans hencode) herr
  obtain ⟨t', hencode', -, hidle, -, -, -, hbits⟩ := encodingWritesTheBitString s text he hb hc hm hout hv hroom
  obtain rfl : t = t' := Option.some.inj (hencode.symm.trans hencode')
  obtain ⟨-, hw, -⟩ := hout
  have hself : SameTree s s := ⟨hb, rfl, rfl, rfl, rfl, hw⟩
  have hsame : SameTree s t := hself.of_issueAll hencode fun _ => isCoding_of_mem_encodeCommands
  obtain ⟨u, hdecStart, hcur, hu⟩ := hsame.issue_decStart herr hvalid hidle
  have hwalk : walkBits s u.cursor (textBits s text) = .ok (s.root, text) := by
    rw [hcur, walkBits_textBits hmatch hv]
  obtain ⟨v, hstream, hatRoot, hdecoded⟩ := hu.issueAll_stream hbits hwalk hlen
  obtain ⟨w, hdecEnd, hwerr, hwout, hpartial, hwidle⟩ := hdecoded.issue_decEnd hatRoot
  refine ⟨w, ?_, hwerr, ?_, hwout, hpartial, hwidle⟩
  · rw [decodeCommands, issueAll_cons hdecStart, issueAll_append hstream, issueAll_cons hdecEnd, issueAll]
  · rw [← outputBytes_length, hwout, List.nil_append]

end Sys2Proof.Machine

/-! # Exceptions (spec/60_exceptions.md): acceptance and completion, the errors, FAULT, and the interrupt output -/

namespace Sys2Proof.Machine

/-! ## Completion (R262) -/

/-- How a latched command leaves the state: with its body's writes, none of them outside the body's reach, or with an error
taken (R262). -/
inductive CompletesFrom (s : State) : State → Prop
  | success {u : State} (same : SameOutside s u) : CompletesFrom s u.complete
  | error (e : ErrCode) : CompletesFrom s (s.raise e)

/-- Every command but RESET completes (R262). -/
theorem exec_completesFrom {i : Instr} {s t : State} (hi : i ≠ .reset) (h : exec i s = .next t) : CompletesFrom s t := by
  rcases exec_cases h with ⟨hr, -⟩ | ⟨-, -, u, hbody, rfl⟩ | ⟨-, e, -, rfl⟩
  · exact absurd hr hi
  · exact .success (commandBody_sameOutside hbody)
  · exact .error e

/-- Only the word of RESET decodes to RESET (R125, R126). -/
theorem ne_reset_of_decode {w : Word} {i : Instr} (hw : w ≠ resetWord) (h : decode w = .ok i) : i ≠ .reset := by
  rintro rfl
  exact hw (encodeOfDecodeIsTheWord w .reset h).symm

/-- Whatever acceptance latched, legal or not, the core step completes it (R151, R262). -/
theorem coreStep_completesFrom {s t : State} (hp : s.pend ≠ resetWord) (h : coreStep s = .next t) : CompletesFrom s t := by
  rcases coreStep_cases h with ⟨i, hd, hexec⟩ | ⟨e, -, rfl⟩
  · exact exec_completesFrom (ne_reset_of_decode hp hd) hexec
  · exact .error .illegal

/-- Completion ends the command and keeps the latch (R262). -/
theorem CompletesFrom.finished {s t : State} (h : CompletesFrom s t) :
    t.busy = false ∧ t.done = true ∧ t.pend = s.pend ∧ t.parg = s.parg := by
  cases h with
  | success same =>
    obtain ⟨-, -, -, -, -, -, -, -, hpend, hparg, -⟩ := same
    exact ⟨rfl, rfl, hpend, hparg⟩
  | error e => exact ⟨rfl, rfl, rfl, rfl⟩

/-- Settles O7: the core's turn with a command in flight is the core step, which completes whatever acceptance latched. -/
theorem everyLatchedCommandCompletes : Obligations.EveryLatchedCommandCompletes := by
  refine fun s => ⟨coreTurn_idle, fun hb hp => ?_⟩
  obtain ⟨t, ht⟩ := coreStep_next s
  exact ⟨t, (if_pos hb).trans ht, (coreStep_completesFrom hp ht).finished⟩

/-! ## FAULT (R266, R272) -/

/-- t is in FAULT with the record of s's error (R264, R266). -/
def FaultKept (s t : State) : Prop := t.err = true ∧ t.errcode = s.errcode ∧ t.errcmd = s.errcmd

/-- A completion never clears ERR (R262, R264). -/
theorem CompletesFrom.err {s t : State} (h : CompletesFrom s t) (he : s.err = true) : t.err = true := by
  cases h with
  | success same =>
    obtain ⟨-, -, -, herr, -⟩ := same
    exact herr.trans he
  | error e => rfl

/-- A completion in FAULT keeps the first error, whether or not the command takes a second one (R268, R272). -/
theorem CompletesFrom.faultKept {s t : State} (h : CompletesFrom s t) (he : s.err = true) (hc : s.errcode ≠ none) :
    FaultKept s t := by
  refine ⟨h.err he, ?_⟩
  cases h with
  | success same =>
    obtain ⟨-, -, -, -, herrcode, herrcmd, -⟩ := same
    exact ⟨herrcode, herrcmd⟩
  | error e => exact ⟨if_neg hc, if_neg hc⟩

/-- In FAULT no write but RESET to CMD touches the error (R261 case 2, R266). -/
theorem memWrite_faultKept {s : State} {addr w : Word} (he : s.err = true) (hw : ¬ (alignAddr addr = 0x004 ∧ w = resetWord)) :
    FaultKept s (s.memWrite addr w) := by
  unfold State.memWrite
  split
  · next hcmd =>
    rw [accept_eq_self (fun hreset => hw ⟨hcmd, hreset⟩) he]
    exact ⟨he, rfl, rfl⟩
  all_goals exact ⟨he, rfl, rfl⟩

/-- In FAULT a bus access keeps the error or is the RESET command (R266). -/
theorem busAccess_faultKept {s : State} (he : s.err = true) (op : BusOp) :
    FaultKept s (s.busAccess op) ∨ ∃ addr, alignAddr addr = 0x004 ∧ op = .write addr resetWord := by
  cases op with
  | read addr => exact .inl ⟨he, rfl, rfl⟩
  | write addr w =>
    by_cases hw : alignAddr addr = 0x004 ∧ w = resetWord
    · obtain ⟨hcmd, rfl⟩ := hw
      exact .inr ⟨addr, hcmd, rfl⟩
    · exact .inl (memWrite_faultKept he hw)

/-- rst_n going low touches no error before the next clk edge (R300). -/
theorem driveReset_faultKept {s : State} (he : s.err = true) : FaultKept s s.driveReset := by
  unfold State.driveReset
  split <;> exact ⟨he, rfl, rfl⟩

/-- rst_n going high touches no error (R302). -/
theorem releaseReset_faultKept {s t : State} (he : s.err = true) (h : releaseReset s = .next t) : FaultKept s t := by
  unfold releaseReset at h
  split at h
  · cases h; exact ⟨he, rfl, rfl⟩
  · split at h <;> cases h
    exact ⟨he, rfl, rfl⟩

/-- Settles O11: with rst_n high, an input that is not RESET to CMD leaves the errors alone or completes the command in flight,
which keeps the first error. -/
theorem faultHoldsUntilReset : Obligations.FaultHoldsUntilReset := by
  intro s t he hc hlatch h
  obtain ⟨u, rfl, hcases⟩ := step_cases h
  rcases hcases with ⟨-, op, hi, rfl⟩ | ⟨-, -, hb, hcore⟩ | ⟨-, -, -, rfl⟩ | ⟨-, -, rfl⟩ | ⟨hr, -⟩ | ⟨-, rfl⟩ | ⟨-, hhigh⟩
  · rcases busAccess_faultKept (s := s.takeInput) he op with hkept | ⟨addr, hcmd, rfl⟩
    · exact .inl hkept
    · exact .inr (.inl ⟨addr, hcmd, hi⟩)
  · exact .inl ((coreStep_completesFrom (s := s.takeInput) (hlatch hb) hcore).faultKept he hc)
  · exact .inl ⟨he, rfl, rfl⟩
  · exact .inl ⟨he, rfl, rfl⟩
  · exact .inr (.inr hr)
  · exact .inl (driveReset_faultKept (s := s.takeInput) he)
  · exact .inl (releaseReset_faultKept (s := s.takeInput) he hhigh)

/-! ## A step and the command it runs (R261, R262) -/

/-- The core's turn, with a command in flight, runs the command its word decodes to (R262). -/
theorem step_latched_command {s : State} {i : Instr} (hr : s.rstN = true) (hb : s.busy = true) (hi : s.nextInput = .core)
    (hd : decode s.pend = .ok i) : step s = exec i s.takeInput := by
  rw [step_core_busy hi hr hb, coreStep, State.takeInput_pend, hd]

/-- A write of RESET that reaches CMD is ResetAll, and the bus acknowledges it (R151, R261 case 1). -/
theorem step_resetWrite {s : State} {addr : Word} (hr : s.rstN = true) (hcmd : alignAddr addr = 0x004)
    (hi : s.nextInput = .bus (.write addr resetWord)) : step s = .next { s.takeInput.resetAll with resp := .written } := by
  rw [step_bus hi hr, State.busAccess, memWrite_cmd _ _ hcmd, accept_resetWord]

/-- The word of a command but RESET is placed in the latch, with the core's turn next (log entry 3). -/
theorem withFetchWord_encode (s : State) {i : Instr} (hi : i ≠ .reset) :
    s.withFetchWord 32 (encode i).toNat = { s.latch (encode i) with inputs := .core :: s.inputs } := by
  have hword : BitVec.ofNat 32 ((encode i).toNat % 2 ^ 32) = encode i := by
    rw [Nat.mod_eq_of_lt (encode i).isLt, BitVec.ofNat_toNat, BitVec.setWidth_eq]
  rw [State.withFetchWord, hword]
  exact if_neg (encode_ne_resetWord hi)

/-- The word of RESET is placed as the write to CMD that presents it (R151, log entry 3). -/
theorem withFetchWord_encode_reset (s : State) :
    s.withFetchWord 32 (encode .reset).toNat = { s with inputs := .bus (.write 0x004#32 resetWord) :: s.inputs } := rfl

/-- Settles O5: a step in each of the three situations, the word that `withFetchWord` places being in one of the first two. -/
theorem stepRunsTheDecodedCommand : Obligations.StepRunsTheDecodedCommand := by
  refine ⟨fun s i => step_latched_command, fun s addr hr hcmd hi => ⟨_, exec_reset _, step_resetWrite hr hcmd hi⟩,
    fun s i hr => ⟨fun hi => ?latched, ?reset⟩⟩
  case latched =>
    rw [withFetchWord_encode s hi]
    exact step_latched_command hr rfl rfl (decodeOfEncodeIsTheCommand i)
  case reset =>
    rw [withFetchWord_encode_reset]
    exact step_resetWrite hr rfl rfl

/-! ## Acceptance (R261), RecordError (R264) and the preconditions (R265) -/

/-- Settles O6: a write that reaches CMD is an acceptance, which has these cases. -/
theorem acceptanceHasFourCases : Obligations.AcceptanceHasFourCases := by
  intro s addr w hcmd
  rw [memWrite_cmd s w hcmd]
  refine ⟨?_, accept_eq_self, accept_eq_recordError, accept_eq_latch⟩
  rintro rfl
  exact accept_resetWord s

/-- Settles O8: RecordError looks at ERRCODE only, and an error taken is RecordError and the completion. -/
theorem takingAnErrorKeepsTheRest : Obligations.TakingAnErrorKeepsTheRest := by
  refine fun s e w => ⟨fun hfirst => ?first, fun hlater => ?later, rfl⟩
  case first => simp only [State.recordError, if_pos hfirst]
  case later => simp only [State.recordError, if_neg hlater]

/-- Settles O10: in each row the condition is the command's `precondition`, and a false one is E_SEQ. -/
theorem preconditionsRaiseESeq : Obligations.PreconditionsRaiseESeq := by
  refine fun s sym byte nb => ⟨⟨_, exec_nop s, rfl, rfl⟩, ⟨_, exec_reset s, rfl⟩, fun hv => ?noTree, fun h => ?gen,
    fun h => ?encStart, fun hm => ?encoding, fun h => ?decStart, fun hm => ?decoding⟩
  case noTree =>
    and_intros <;> exact exec_badSeq (by simp) (by simp [precondition, hv])
  case gen => exact exec_badSeq (by decide) (by simpa [precondition] using h)
  case encStart => exact exec_badSeq (by decide) (by simpa [precondition] using h)
  case encoding => exact ⟨exec_badSeq (by simp) (decide_eq_false hm), exec_badSeq (by decide) (decide_eq_false hm)⟩
  case decStart => exact exec_badSeq (by decide) (by simpa [precondition] using h)
  case decoding => exact ⟨exec_badSeq (by simp) (decide_eq_false hm), exec_badSeq (by decide) (decide_eq_false hm)⟩

/-! ## The interrupt output (R270) -/

/-- IRQ has two sources, each with its enable (R270, R271). -/
theorem irq_eq_true_iff (s : State) :
    s.irq = true ↔ (s.done = true ∧ s.ieDone = true) ∨ (s.err = true ∧ s.ieErr = true) := by
  simp [State.irq]

/-- With neither DONE nor ERR there is no interrupt (R270). -/
theorem irq_eq_false {s : State} (hd : s.done = false) (he : s.err = false) : s.irq = false := by
  simp [State.irq, hd, he]

/-- Acceptance with no error and nothing in flight leaves no interrupt: RESET is ResetAll, and any other word clears DONE
(R261, R270). -/
theorem irq_accept {s : State} (he : s.err = false) (hb : s.busy = false) (w : Word) : (s.accept w).irq = false := by
  by_cases hw : w = resetWord
  · rw [hw, accept_resetWord]
    exact irq_eq_false rfl rfl
  · rw [accept_eq_latch hw he hb]
    exact irq_eq_false rfl he

/-- Settles O12: each source is DONE or ERR with its enable, and ERR stays up as in FAULT. -/
theorem irqIsALevelOfTheState : Obligations.IrqIsALevelOfTheState := by
  intro s v w
  refine ⟨irq_eq_true_iff s, fun hv => ?doneCleared, fun he hb => irq_accept he hb w, ?masked, fun he =>
    ⟨fun addr hw => (memWrite_faultKept he hw).1, fun i t hi h => (exec_completesFrom hi h).err he⟩, irq_eq_false rfl rfl⟩
  case doneCleared =>
    obtain ⟨-, hstatus, -⟩ := writesActAtFourOffsets s 0x00C#32 v
    rw [hstatus rfl, irq_eq_true_iff]
    simp [hv]
  case masked =>
    obtain ⟨-, -, hctrl, -⟩ := writesActAtFourOffsets s 0x018#32 v
    rw [hctrl rfl, irq_eq_true_iff]

end Sys2Proof.Machine

/-! # Reset (spec/70_reset_and_hazards.md): the reset pin (R300, R302), the reset state, and the end of a command in flight (R322) -/

namespace Sys2Proof.Machine

/-! ## The reset pin (R300, R302) -/

/-- Settles O52: at a clk edge with rst_n low the model performs ResetAll and counts the edge. -/
theorem resetPinPerformsResetAll : Obligations.ResetPinPerformsResetAll :=
  fun s hr hi => ⟨s.resetAll, exec_reset s, step_reset_edge hi hr⟩

/-- A pulse released too early (R302, log entry 8). -/
theorem releaseReset_early {s : State} (hr : s.rstN = false) (h : s.rstCycles < s.params.rstMin) :
    releaseReset s = .fault .resetPulseTooShort := by
  rw [releaseReset, if_neg (by simp [hr]), if_pos h]

/-- A pulse that lasted RST_MIN edges (R302). -/
theorem releaseReset_late {s : State} (hr : s.rstN = false) (h : s.params.rstMin ≤ s.rstCycles) :
    releaseReset s = .next { s with rstN := true, rstCycles := 0 } := by
  rw [releaseReset, if_neg (by simp [hr]), if_neg (Nat.not_lt.mpr h)]

/-- A bus access while rst_n is low (R302, U10, log entry 9). -/
theorem step_bus_in_reset {s : State} {op : BusOp} (hr : s.rstN = false) (hi : s.nextInput = .bus op) :
    step s = .refused .busAccessInReset := by
  simp [step, hi, inputStep, hr]

/-- Settles O53: the release of rst_n turns on the edges counted, and a bus access is refused whatever they are. -/
theorem resetPulseHasALength : Obligations.ResetPulseHasALength :=
  fun s _ hr => ⟨fun hi h => (step_rstHigh hi).trans (releaseReset_early (s := s.takeInput) hr h),
    step_bus_in_reset hr, fun hi h => (step_rstHigh hi).trans (releaseReset_late (s := s.takeInput) hr h)⟩

/-! ## The end of a command in flight (R322) -/

/-- After a core step nothing is in flight, whatever the latch held (R262, log entry 13). -/
theorem coreStep_not_busy {s t : State} (h : coreStep s = .next t) : t.busy = false := by
  rcases coreStep_cases h with ⟨i, -, hexec⟩ | ⟨e, -, rfl⟩
  · by_cases hi : i = .reset
    · subst hi
      cases hexec
      rfl
    · obtain ⟨hbusy, -⟩ := (exec_completesFrom hi hexec).finished
      exact hbusy
  · rfl

/-- A core step keeps the pin and the inputs. -/
theorem coreStep_keeps {s t : State} (h : coreStep s = .next t) : t.rstN = s.rstN ∧ t.inputs = s.inputs := by
  rcases coreStep_cases h with ⟨i, -, hexec⟩ | ⟨e, -, rfl⟩
  · obtain ⟨-, hr, -, -, hinputs, -⟩ := exec_keeps hexec
    exact ⟨hr, hinputs⟩
  · exact ⟨rfl, rfl⟩

/-- A bus access keeps the pin and the inputs. -/
theorem busAccess_keeps (s : State) (op : BusOp) :
    (s.busAccess op).rstN = s.rstN ∧ (s.busAccess op).inputs = s.inputs := by
  cases op with
  | read addr => exact ⟨rfl, rfl⟩
  | write addr v =>
    obtain ⟨hr, -, hinputs, -⟩ := memWrite_keeps s addr v
    exact ⟨hr, hinputs⟩

/-- With rst_n high and staying high, a step never stops: it uses up one input, and the core's turn ends the command in
flight. -/
theorem step_of_rstN_high {s : State} (hr : s.rstN = true) (hb : s.busy = true) (hlow : s.nextInput ≠ .rstLow) :
    ∃ t, step s = .next t ∧ t.rstN = true ∧ t.inputs = s.inputs.tail ∧ (s.nextInput = .core → t.busy = false) := by
  cases hi : s.nextInput with
  | bus op =>
    obtain ⟨hpin, hinputs⟩ := busAccess_keeps s.takeInput op
    exact ⟨_, step_bus hi hr, hpin.trans hr, hinputs, nofun⟩
  | core =>
    obtain ⟨t, ht⟩ := coreStep_next s.takeInput
    obtain ⟨hpin, hinputs⟩ := coreStep_keeps ht
    exact ⟨t, (step_core_busy hi hr hb).trans ht, hpin.trans hr, hinputs, fun _ => coreStep_not_busy ht⟩
  | clk => exact ⟨_, step_clk hi hr, hr, rfl, nofun⟩
  | rstLow => exact absurd hi hlow
  | rstHigh => exact ⟨_, (step_rstHigh hi).trans (releaseReset_high (s := s.takeInput) hr), hr, rfl, nofun⟩

/-- Settles O13, by induction on the inputs: with none left the core has its turn, and a step before that either ends the
command or leaves one input less. -/
theorem commandsInFlightComplete : Obligations.CommandsInFlightComplete := by
  intro s hr hb hlow
  induction hin : s.inputs generalizing s with
  | nil =>
    have hi := nextInput_nil hin
    obtain ⟨t, hstep, -, -, hdone⟩ := step_of_rstN_high hr hb (by simp [hi])
    exact ⟨1, t, by simp, run_succ hstep 0, hdone hi⟩
  | cons i rest ih =>
    have hi := nextInput_cons hin
    rw [hin, List.mem_cons, not_or] at hlow
    obtain ⟨t, hstep, hpin, hinputs, -⟩ := step_of_rstN_high hr hb (hi ▸ Ne.symm hlow.1)
    rw [hin, List.tail_cons] at hinputs
    cases hbusy : t.busy with
    | false => exact ⟨1, t, by simp, run_succ hstep 0, hbusy⟩
    | true =>
      obtain ⟨n, u, hn, hrun, hidle⟩ := ih t hpin hbusy (hinputs ▸ hlow.2) hinputs
      exact ⟨n + 1, u, Nat.succ_le_succ hn, (run_succ hstep n).trans hrun, hidle⟩

end Sys2Proof.Machine

/-! # The invariants (spec/10_state.md section 6): what a step can do to the core, and what stays true of it (R70-R73) -/

namespace Sys2Proof.Machine

/-! ## What a step can do to the core -/

/-- s with the registers of acceptance, the errors, the enables, the pins, the bus and the inputs taken from o: what no
invariant but those of the errors and the latch speaks of. -/
def State.withOutside (s o : State) : State :=
  { s with
    arg0 := o.arg0, busy := o.busy, done := o.done, err := o.err, errcode := o.errcode, errcmd := o.errcmd,
    ieDone := o.ieDone, ieErr := o.ieErr, pend := o.pend, parg := o.parg, rstN := o.rstN, rstCycles := o.rstCycles,
    resp := o.resp, inputs := o.inputs, draws := o.draws }

/-- What a step from s can do to the core. -/
inductive CoreEffect (s : State) : State → Prop
  /-- It touches the outside only: an access, an acceptance, an error taken, a move of the pin, or nothing. -/
  | kept (o : State) : CoreEffect s (s.withOutside o)
  /-- ResetAll (R301). -/
  | reset (o : State) : CoreEffect s (s.resetAll.withOutside o)
  /-- The body of a command succeeds (R262). -/
  | command {i : Instr} {o o' t : State} (notReset : i ≠ .reset) (pre : precondition i (s.withOutside o) = true)
      (body : innerBody i (s.withOutside o) = .ok t) : CoreEffect s (t.withOutside o')

/-- Taking the input off the list touches the outside only. -/
theorem CoreEffect.of_takeInput {s t : State} (h : CoreEffect s.takeInput t) : CoreEffect s t := by
  cases h with
  | kept o => exact .kept o
  | reset o => exact .reset o
  | command notReset pre body => exact .command notReset pre body

/-- Acceptance, the bus answer included (R261). -/
theorem accept_effect (s : State) (w : Word) (r : BusResp) : CoreEffect s { s.accept w with resp := r } := by
  rcases accept_cases s w with ⟨-, h⟩ | ⟨-, -, h⟩ | ⟨-, -, -, h⟩ | ⟨-, -, -, h⟩ <;> rw [h]
  · exact .reset { s.resetAll with resp := r }
  · exact .kept { s with resp := r }
  · exact .kept { s.recordError .busy w with resp := r }
  · exact .kept { s.latch w with resp := r }

/-- A bus access (R94, R95). -/
theorem busAccess_effect (s : State) (op : BusOp) : CoreEffect s (s.busAccess op) := by
  cases op with
  | read addr => exact .kept (s.busAccess (.read addr))
  | write addr v =>
    unfold State.busAccess
    dsimp only
    rcases memWrite_cases s addr v with h | h | h | h | h <;> rw [h]
    · exact accept_effect s v .written
    · exact .kept { s with arg0 := v, resp := .written }
    · exact .kept { s.writeStatus v with resp := .written }
    · exact .kept { s.writeCtrl v with resp := .written }
    · exact .kept { s with resp := .written }

/-- A core step (R262). -/
theorem coreStep_effect {s t : State} (h : coreStep s = .next t) : CoreEffect s t := by
  rcases coreStep_cases h with ⟨i, -, hexec⟩ | ⟨e, -, rfl⟩
  · rcases exec_cases hexec with ⟨-, rfl⟩ | ⟨hi, hp, u, hbody, rfl⟩ | ⟨-, e, -, rfl⟩
    · exact .reset s.resetAll
    · exact .command (o := s) (o' := u.complete) hi hp (require_ok hbody).2
    · exact .kept (s.raise e)
  · exact .kept (s.raise .illegal)

/-- rst_n going low (R300). -/
theorem driveReset_effect (s : State) : CoreEffect s s.driveReset := by
  unfold State.driveReset
  split
  · exact .kept { s with rstN := false, rstCycles := 0 }
  · exact .kept s

/-- rst_n going high (R302). -/
theorem releaseReset_effect {s t : State} (h : releaseReset s = .next t) : CoreEffect s t := by
  unfold releaseReset at h
  split at h
  · cases h
    exact .kept s
  · split at h <;> cases h
    exact .kept { s with rstN := true, rstCycles := 0 }

/-- What any step does to the core. -/
theorem step_effect {s t : State} (h : step s = .next t) : CoreEffect s t := by
  obtain ⟨u, rfl, hcases⟩ := step_cases h
  apply CoreEffect.of_takeInput
  rcases hcases with ⟨-, op, -, rfl⟩ | ⟨-, -, -, hcore⟩ | ⟨-, -, -, rfl⟩ | ⟨-, -, rfl⟩ | ⟨-, -, rfl⟩ | ⟨-, rfl⟩ | ⟨-, hhigh⟩
  · exact busAccess_effect _ op
  · exact coreStep_effect hcore
  · exact .kept s.takeInput
  · exact .kept s.takeInput
  · exact .reset s.takeInput.resetEdge
  · exact driveReset_effect _
  · exact releaseReset_effect hhigh

/-! ## NSYM and TOTAL (R70) -/

/-- One number of a list replaced. -/
theorem sum_set_add {l : List Nat} {i : Nat} (h : i < l.length) (a : Nat) : (l.set i a).sum + l[i] = l.sum + a := by
  induction l generalizing i with
  | nil => cases h
  | cons b l ih =>
    cases i with
    | zero =>
      simp only [List.set_cons_zero, List.sum_cons, List.getElem_cons_zero]
      omega
    | succ i =>
      have hrest := ih (Nat.lt_of_succ_lt_succ h)
      simp only [List.set_cons_succ, List.sum_cons, List.getElem_cons_succ]
      omega

/-- The sum of the counts after one count is written (R162). -/
theorem sumOfCounts_setFreq (s : State) (sym : Byte) (n : Word) :
    sumOfCounts (s.setFreq sym n).freq + (s.freqAt sym).toNat = sumOfCounts s.freq + n.toNat := by
  have hlt : sym.toNat < (s.freq.toList.map BitVec.toNat).length := by
    rw [List.length_map, s.freq.length_toList]
    exact sym.isLt
  have hset := sum_set_add hlt n.toNat
  rw [← List.map_set, List.getElem_map] at hset
  exact hset

/-- The number of present symbols after one count is written (R162). -/
theorem presentSymbols_setFreq (s : State) (sym : Byte) (n : Word) :
    presentSymbols (s.setFreq sym n).freq + (if s.freqAt sym = 0#32 then 0 else 1) =
      presentSymbols s.freq + (if n = 0#32 then 0 else 1) := by
  have hlt : sym.toNat < s.freq.toList.length := sym.isLt.trans_eq s.freq.length_toList.symm
  have hat : s.freq.toList[sym.toNat] = s.freqAt sym := rfl
  have hset := List.countP_set (p := fun c => decide (c ≠ 0#32)) (a := n) hlt
  have hpos : s.freqAt sym ≠ 0#32 → 0 < presentSymbols s.freq :=
    fun hne => List.countP_pos_iff.mpr ⟨s.freqAt sym, hat ▸ List.getElem_mem hlt, decide_eq_true hne⟩
  rw [hat] at hset
  simp only [decide_eq_true_eq, ne_eq, ite_not] at hset
  change presentSymbols (s.setFreq sym n).freq = presentSymbols s.freq - _ + _ at hset
  rw [hset]
  by_cases hold : s.freqAt sym = 0#32
  · simp only [if_pos hold]
    omega
  · have := hpos hold
    simp only [if_neg hold]
    omega

/-- A count is at most the sum of the counts. -/
theorem freqAt_le_sumOfCounts (s : State) (sym : Byte) : (s.freqAt sym).toNat ≤ sumOfCounts s.freq := by
  have := sumOfCounts_setFreq s sym 0#32
  simp only [BitVec.toNat_zero] at this
  omega

/-- A count that is present is counted. -/
theorem presentSymbols_pos {s : State} {sym : Byte} (h : s.freqAt sym ≠ 0#32) : 1 ≤ presentSymbols s.freq := by
  have := presentSymbols_setFreq s sym 0#32
  rw [if_neg h, if_pos rfl] at this
  omega

/-- With all counts 0 no symbol is present, and the sum is 0 (R160, R301). -/
theorem freqConsistent_of_zero {s : State} (hfreq : s.freq = Table.replicate 256 0#32) (hnsym : s.nsym = 0#9)
    (htotal : s.total = 0#32) : FreqConsistent s := by
  rw [FreqConsistent, hfreq, hnsym, htotal]
  simp [presentSymbols, sumOfCounts, List.countP_replicate]

/-- FREQ_ADD (R161): TOTAL has room for one, so neither sum wraps. -/
theorem freqAddBody_freqConsistent {sym : Byte} {s t : State} (hs : FreqConsistent s) (h : freqAddBody sym s = .ok t) :
    FreqConsistent t := by
  obtain ⟨hroom, rfl⟩ := freqAddBody_ok h
  obtain ⟨hnsym, htotal⟩ := hs
  have hle := freqAt_le_sumOfCounts s sym
  have hcount : (s.freqAt sym + 1#32).toNat = (s.freqAt sym).toNat + 1 := by bv_omega
  have hsum := sumOfCounts_setFreq s sym (s.freqAt sym + 1#32)
  have hpresent := presentSymbols_setFreq s sym (s.freqAt sym + 1#32)
  have hfits := presentSymbols_le (s.setFreq sym (s.freqAt sym + 1#32)).freq
  rw [if_neg (show s.freqAt sym + 1#32 ≠ 0#32 by bv_omega)] at hpresent
  refine ⟨?nsym, ?total⟩
  case total =>
    change (s.total + 1#32).toNat = sumOfCounts (s.setFreq sym (s.freqAt sym + 1#32)).freq
    bv_omega
  case nsym =>
    change (if s.freqAt sym = 0#32 then s.nsym + 1#9 else s.nsym).toNat =
      presentSymbols (s.setFreq sym (s.freqAt sym + 1#32)).freq
    split_ifs at hpresent ⊢ <;> bv_omega

/-- FREQ_SET (R162): the exact sum fits TOTAL. -/
theorem freqSetBody_freqConsistent {sym : Byte} {s t : State} (hs : FreqConsistent s) (h : freqSetBody sym s = .ok t) :
    FreqConsistent t := by
  obtain ⟨hfits, rfl⟩ := freqSetBody_ok h
  obtain ⟨hnsym, htotal⟩ := hs
  have hle := freqAt_le_sumOfCounts s sym
  have hsum := sumOfCounts_setFreq s sym s.parg
  have hpresent := presentSymbols_setFreq s sym s.parg
  refine ⟨?nsym, ?total⟩
  case total =>
    change (BitVec.ofInt 32 (freqSetTotal sym s)).toNat = sumOfCounts (s.setFreq sym s.parg).freq
    rw [freqSetTotal_eq (htotal ▸ hle)] at hfits ⊢
    rw [BitVec.ofInt_natCast, BitVec.toNat_ofNat, Nat.mod_eq_of_lt (by omega)]
    omega
  case nsym =>
    change (freqSetNsym sym s).toNat = presentSymbols (s.setFreq sym s.parg).freq
    have hnew := freqSetNsym_toNat (s := s) (sym := sym) (fun hne => hnsym ▸ presentSymbols_pos hne)
      (hnsym ▸ presentSymbols_le s.freq)
    omega

/-- Every command body keeps R70. -/
theorem innerBody_freqConsistent {i : Instr} {s t : State} (hs : FreqConsistent s) (h : innerBody i s = .ok t) :
    FreqConsistent t := by
  have hframe := innerBody_eq_commandFrame h
  cases i with
  | freqClr =>
    rw [freqClrBody_ok h]
    exact freqConsistent_of_zero rfl rfl rfl
  | freqAdd => exact freqAddBody_freqConsistent hs h
  | freqSet => exact freqSetBody_freqConsistent hs h
  | nop | reset | build | gen | encStart | encSym | encFlush | decStart | decByte | decEnd => rw [hframe]; exact hs

theorem freqConsistent_resetAll (s : State) : FreqConsistent s.resetAll := freqConsistent_of_zero rfl rfl rfl

/-- Settles O55, by what a step can do to the core. -/
theorem freqConsistentKept : Obligations.FreqConsistentKept := by
  intro s t hs h
  cases step_effect h with
  | kept o => exact hs
  | reset o => exact freqConsistent_resetAll s
  | @command _ o _ u _ _ body => exact innerBody_freqConsistent (s := s.withOutside o) (t := u) hs body

/-! ## The phases (R71) -/

/-- Without a tree the machine is between a reset and a BUILD (R71). -/
theorem PhaseOrdered.idle {s : State} (h : PhaseOrdered s) (hv : s.treeValid = false) : s.mode = .idle := by
  obtain ⟨hnone, -⟩ := h
  obtain ⟨-, hidle, -⟩ := hnone hv
  exact hidle

/-- With codes there is a tree (R71). -/
theorem PhaseOrdered.tree_of_codes {s : State} (h : PhaseOrdered s) (hc : s.codeValid = true) : s.treeValid = true := by
  obtain ⟨hnone, -⟩ := h
  by_contra hv
  obtain ⟨hnocodes, -⟩ := hnone (Bool.eq_false_of_not_eq_true hv)
  exact absurd (hc.symm.trans hnocodes) (by decide)

/-- The phases of a state with a tree. -/
theorem phaseOrdered_of_tree {s : State} (hv : s.treeValid = true) (henc : s.mode = .enc → s.codeValid = true) :
    PhaseOrdered s :=
  ⟨fun hnone => absurd (hv.symm.trans hnone) (by decide), henc, fun _ => hv⟩

/-- Every command body keeps R71: a command that moves to a later phase requires the one before. -/
theorem innerBody_phaseOrdered {i : Instr} {s t : State} (hs : PhaseOrdered s) (hp : precondition i s = true)
    (h : innerBody i s = .ok t) : PhaseOrdered t := by
  have hframe := innerBody_eq_commandFrame h
  obtain ⟨hnone, henc, hdec⟩ := id hs
  cases i with
  | nop | reset | freqClr | freqAdd | freqSet | encSym | decByte => rw [hframe]; exact hs
  | build =>
    have hv : s.treeValid = false := by simpa [precondition] using hp
    rw [buildBody_ok h]
    exact phaseOrdered_of_tree rfl henc
  | gen =>
    obtain ⟨hv, -⟩ : s.treeValid = true ∧ s.codeValid = false := by simpa [precondition] using hp
    obtain ⟨c, m, -, rfl⟩ := genBody_ok h
    exact phaseOrdered_of_tree hv fun _ => rfl
  | encStart =>
    obtain ⟨hc, -⟩ : s.codeValid = true ∧ s.mode = .idle := by simpa [precondition] using hp
    rw [encStartBody_ok h]
    exact phaseOrdered_of_tree (hs.tree_of_codes hc) fun _ => hc
  | decStart =>
    obtain ⟨hv, -⟩ : s.treeValid = true ∧ s.mode = .idle := by simpa [precondition] using hp
    rw [decStartBody_ok h]
    exact phaseOrdered_of_tree hv nofun
  | encFlush =>
    have hv := hs.tree_of_codes (henc (by simpa [precondition] using hp))
    rcases encFlushBody_ok h with ⟨-, rfl⟩ | ⟨-, -, rfl⟩ <;> exact phaseOrdered_of_tree hv nofun
  | decEnd =>
    have hv := hdec (by simpa [precondition] using hp)
    rw [decEndBody_ok h]
    exact phaseOrdered_of_tree hv nofun

theorem phaseOrdered_resetAll (s : State) : PhaseOrdered s.resetAll := ⟨fun _ => ⟨rfl, rfl, rfl, rfl⟩, nofun, nofun⟩

/-- Settles O56, by what a step can do to the core. -/
theorem phaseOrderedKept : Obligations.PhaseOrderedKept := by
  intro s t hs h
  cases step_effect h with
  | kept o => exact hs
  | reset o => exact phaseOrdered_resetAll s
  | @command _ o _ u _ pre body => exact innerBody_phaseOrdered (s := s.withOutside o) (t := u) hs pre body

/-! ## The output buffer (R73) and the bit packer (R72) -/

/-- A listed byte is read back: OUT in canonical form lists nothing from n on exactly when every index from n on holds 0
(log entry 17). -/
theorem Memory.below_iff {m : Memory} {lo n : Nat} (hw : Memory.wfFrom lo m = true) :
    Memory.below n m = true ↔ ∀ j, n ≤ j → Memory.read m j = 0#8 := by
  induction m generalizing lo with
  | nil => simp [Memory.below]
  | cons c m ih =>
    obtain ⟨a, b⟩ := c
    simp only [Memory.wfFrom, Bool.and_eq_true, decide_eq_true_eq] at hw
    obtain ⟨⟨-, hb⟩, hw⟩ := hw
    have hbelow : Memory.below n ((a, b) :: m) = true ↔ a < n ∧ Memory.below n m = true := by simp [Memory.below]
    rw [hbelow, ih hw]
    constructor
    · rintro ⟨ha, hm⟩ j hj
      rw [Memory.read, if_neg (by omega)]
      exact hm j hj
    · intro h
      have ha : a < n := by
        by_contra hna
        exact hb (by simpa [Memory.read] using h a (Nat.le_of_not_lt hna))
      refine ⟨ha, fun j hj => ?_⟩
      have hread := h j hj
      rwa [Memory.read, if_neg (by omega)] at hread

/-- New bytes within OUT_DEPTH leave every index past it at 0 (R211-R213, R232). -/
theorem OutputBounded.of_onlyNewBytes {s t : State} (hs : OutputBounded s) (hdepth : t.outDepth = s.outDepth)
    (hw : Memory.wf t.out = true) (hcnt : t.outcnt.toNat ≤ s.outDepth) (h : OnlyNewBytes s t) : OutputBounded t := by
  obtain ⟨-, hws, hbelow⟩ := hs
  obtain ⟨-, hbytes⟩ := h
  rw [OutputBounded, hdepth]
  refine ⟨hcnt, hw, (Memory.below_iff hw).mpr fun j hj => ?_⟩
  calc Memory.read t.out j = Memory.read s.out j := hbytes j (.inr (hcnt.trans hj))
    _ = 0#8 := (Memory.below_iff hws).mp hbelow j hj

/-- A body that stores into OUT checks the room first (R211, R212, R232). -/
theorem innerBody_outcnt_le {i : Instr} {s t : State} (hi : StoresBytes i) (hs : s.outcnt.toNat ≤ s.outDepth)
    (h : innerBody i s = .ok t) : t.outcnt.toNat ≤ s.outDepth := by
  have hdepth := s.outDepth_le
  rcases hi with ⟨sym, rfl⟩ | rfl | ⟨byte, nb, rfl⟩
  · obtain ⟨-, hroom, rfl⟩ := encSymBody_ok h
    obtain ⟨hcnt, -⟩ := State.pushBits_counts (s := s) (codeString (s.codeAt sym))
      (by rw [codeString_length]; unfold completedBytes at hroom; omega)
    rw [codeString_length] at hcnt
    exact hcnt.trans_le hroom
  · rcases encFlushBody_ok h with ⟨-, rfl⟩ | ⟨-, hroom, rfl⟩
    · exact hs
    · change (s.outcnt + 1#17).toNat ≤ s.outDepth
      bv_omega
  · obtain ⟨-, cur, es, -, hroom, rfl⟩ := decByteBody_ok h
    change (s.emitAll es).outcnt.toNat ≤ s.outDepth
    rw [State.emitAll_outcnt, BitVec.toNat_add, BitVec.toNat_ofNat]
    omega

/-- Every command body keeps R73's bound and the canonical form. -/
theorem innerBody_outputBounded {i : Instr} {s t : State} (hreset : i ≠ .reset) (hs : OutputBounded s)
    (hp : precondition i s = true) (h : innerBody i s = .ok t) : OutputBounded t := by
  obtain ⟨hcnt, hw, hbelow⟩ := id hs
  have hframe := innerBody_eq_commandFrame h
  have hstores (hi : StoresBytes i) (hdepth : t.outDepth = s.outDepth) : OutputBounded t :=
    hs.of_onlyNewBytes hdepth (exec_wf_out (t := t.complete) hw (exec_success hreset hp h)) (innerBody_outcnt_le hi hcnt h)
      (innerBody_onlyNewBytes hi hw h)
  cases i with
  | nop | reset | freqClr | freqAdd | freqSet | build | gen | decEnd => rw [hframe]; exact hs
  | encStart =>
    rw [encStartBody_ok h]
    exact ⟨Nat.zero_le _, hw, hbelow⟩
  | decStart =>
    rw [decStartBody_ok h]
    exact ⟨Nat.zero_le _, hw, hbelow⟩
  | encSym | encFlush | decByte => exact hstores (by simp [StoresBytes]) (by rw [hframe]; rfl)

/-- ACC and ACC_N are in step with n bits pushed since ENC_START (R72). -/
def PackerAt (s : State) (n : Nat) : Prop := s.accN.toNat = n % 8 ∧ s.acc.toNat < 2 ^ s.accN.toNat

/-- PushBit keeps the packer in step (R213). -/
theorem PackerAt.pushBit {s : State} {n : Nat} (h : PackerAt s n) (b : Bool) : PackerAt (s.pushBit b) (n + 1) := by
  obtain ⟨hn, hacc⟩ := h
  by_cases h7 : s.accN = 7#3
  · have hseven : s.accN.toNat = 7 := congrArg BitVec.toNat h7
    rw [State.pushBit_full h7]
    exact ⟨show 0 = (n + 1) % 8 by omega, Nat.one_pos⟩
  · have hcnt : (s.accN + 1#3).toNat = s.accN.toNat + 1 := by bv_omega
    have hbit : bitNat b ≤ 1 := by cases b <;> decide
    rw [State.pushBit_pending h7]
    refine ⟨show (s.accN + 1#3).toNat = (n + 1) % 8 by bv_omega, ?_⟩
    change (accPush s.acc s.accN b).toNat < 2 ^ (s.accN + 1#3).toNat
    rw [accPush_toNat h7, Nat.mod_eq_of_lt hacc, hcnt, Nat.pow_succ]
    omega

/-- `pushBits` keeps the packer in step (R211). -/
theorem PackerAt.pushBits {s : State} {n : Nat} (h : PackerAt s n) (bs : List Bool) :
    PackerAt (s.pushBits bs) (n + bs.length) := by
  induction bs generalizing s n with
  | nil => exact h
  | cons b bs ih =>
    rw [List.length_cons, Nat.add_comm bs.length, ← Nat.add_assoc]
    exact ih (h.pushBit b)

/-- ENC_BITCNT counts modulo 2^32, which keeps it in step modulo 8 (R46, R72). -/
theorem encSymBody_encoderInStep {sym : Byte} {s t : State} (hs : EncoderInStep s) (h : encSymBody sym s = .ok t) :
    EncoderInStep t := by
  obtain ⟨-, -, rfl⟩ := encSymBody_ok h
  intro hmode
  obtain ⟨hn, hacc⟩ := PackerAt.pushBits (hs ((State.pushBits_mode s _).symm.trans hmode)) (codeString (s.codeAt sym))
  refine ⟨hn.trans ?_, hacc⟩
  change _ = (s.encBitcnt + (s.codeAt sym).len.setWidth 32).toNat % 8
  rw [codeString_length]
  bv_omega

/-- Every command body keeps the packer in step. -/
theorem innerBody_encoderInStep {i : Instr} {s t : State} (hs : EncoderInStep s) (h : innerBody i s = .ok t) :
    EncoderInStep t := by
  have hframe := innerBody_eq_commandFrame h
  cases i with
  | nop | reset | freqClr | freqAdd | freqSet | build | gen | decByte => rw [hframe]; exact hs
  | encStart =>
    rw [encStartBody_ok h]
    exact fun _ => ⟨rfl, Nat.one_pos⟩
  | encSym => exact encSymBody_encoderInStep hs h
  | encFlush => rcases encFlushBody_ok h with ⟨-, rfl⟩ | ⟨-, -, rfl⟩ <;> exact nofun
  | decStart => rw [decStartBody_ok h]; exact nofun
  | decEnd => rw [decEndBody_ok h]; exact nofun

/-- ResetAll leaves OUT as it is and OUTCNT 0 (R301). -/
theorem outputBounded_resetAll {s : State} (hw : Memory.wf s.out = true) (hbelow : Memory.below s.outDepth s.out = true) :
    OutputBounded s.resetAll := ⟨Nat.zero_le _, hw, hbelow⟩

theorem encoderInStep_resetAll (s : State) : EncoderInStep s.resetAll := nofun

/-- Settles O57, by what a step can do to the core. -/
theorem outputAndPackerKept : Obligations.OutputAndPackerKept := by
  refine fun s t h => ⟨fun hs => ?output, fun hs => ?packer⟩
  case output =>
    cases step_effect h with
    | kept o => exact hs
    | reset o =>
      obtain ⟨-, hw, hbelow⟩ := hs
      exact outputBounded_resetAll hw hbelow
    | @command _ o _ u notReset pre body =>
      exact innerBody_outputBounded (s := s.withOutside o) (t := u) notReset hs pre body
  case packer =>
    cases step_effect h with
    | kept o => exact hs
    | reset o => exact encoderInStep_resetAll s
    | @command _ o _ u _ _ body => exact innerBody_encoderInStep (s := s.withOutside o) (t := u) hs body

/-! ## The cursor (R72) -/

/-- What no step of a walk leaves holds where the walk ends (R232). -/
theorem walkBits_keeps {s : State} {P : NodeIdx → Prop}
    (hstep : ∀ cur b c e, P cur → treeStep s cur b = .ok (c, e) → P c) {cur c : NodeIdx} {bs : List Bool} {es : List Byte}
    (hcur : P cur) (h : walkBits s cur bs = .ok (c, es)) : P c := by
  induction bs generalizing cur es with
  | nil =>
    cases h
    exact hcur
  | cons b bs ih =>
    obtain ⟨c1, e, es1, hfirst, hrest, -⟩ := walkBits_cons_eq_ok.mp h
    exact ih (hstep cur b c1 e hcur hfirst) hrest

/-- With at most one symbol ROOT is NIL or a leaf (R173, R174). -/
theorem root_eq_nil_or_leaf {s : State} (h : Holds s.node (buildTree s.freq).1)
    (hroot : s.root = rootOf (buildTree s.freq).2) (hn : presentSymbols s.freq ≤ 1) :
    s.root = NIL ∨ (s.nodeAt s.root).leaf = true := by
  rcases Nat.eq_zero_or_pos (presentSymbols s.freq) with hnone | hsome
  · exact .inl (hroot.trans (rootOf_buildTree_empty hnone))
  · obtain ⟨e, he, hlast⟩ := rootOf_buildTree hsome h
    obtain ⟨hlen, -⟩ := buildTree_length hsome
    obtain ⟨sym, -, hnode⟩ := exists_present_of_lt h (k := e.idx) (by omega)
    right
    rw [hroot, he]
    exact congrArg Node.leaf hnode

/-- From ROOT, NIL or a leaf, Step leads to ROOT (R231). -/
theorem treeStep_root_eq_ok {s : State} {b : Bool} {c : NodeIdx} {e : Option Byte}
    (hroot : s.root = NIL ∨ (s.nodeAt s.root).leaf = true) (h : treeStep s s.root b = .ok (c, e)) : c = s.root := by
  by_cases hnil : s.root = NIL
  · rw [treeStep_empty hnil] at h
    cases h
  · rw [treeStep_at_leaf hnil (hroot.resolve_left hnil)] at h
    cases b <;> cases h
    rfl

/-- Where R72 allows the cursor: at ROOT for at most one symbol, at an internal node of the tree otherwise. -/
def CursorInTree (s : State) (c : NodeIdx) : Prop :=
  (presentSymbols s.freq ≤ 1 → c = s.root) ∧ (1 < presentSymbols s.freq → InnerNode s c)

section
variable {s : State} (h : Holds s.node (buildTree s.freq).1) (hroot : s.root = rootOf (buildTree s.freq).2)
include h hroot

theorem cursorInTree_root : CursorInTree s s.root :=
  ⟨fun _ => rfl, fun hn => (innerNode_root h hroot hn).2⟩

/-- Step keeps the cursor in the tree (R231). -/
theorem CursorInTree.treeStep {cur c : NodeIdx} {b : Bool} {e : Option Byte} (hcur : CursorInTree s cur)
    (hstep : treeStep s cur b = .ok (c, e)) : CursorInTree s c := by
  obtain ⟨hfew, hmany⟩ := hcur
  refine ⟨fun hn => ?few, fun hn => ?many⟩
  case few =>
    rw [hfew hn] at hstep
    exact treeStep_root_eq_ok (root_eq_nil_or_leaf h hroot hn) hstep
  case many =>
    obtain ⟨hnil, hinner⟩ := innerNode_root h hroot hn
    obtain ⟨c', e', hstep', hc'⟩ := (hmany hn).treeStep_eq_ok h hnil hinner b
    cases hstep.symm.trans hstep'
    exact hc'

end

/-- With NSYM the number of present symbols and the tree BUILD's, the cursor is where R72 allows it. -/
theorem decoderInTree_iff {s : State} (hfreq : FreqConsistent s) (htree : TreeIsBuilt s) (hv : s.treeValid = true) :
    DecoderInTree s ↔ (s.mode = .dec → CursorInTree s s.cursor) := by
  obtain ⟨hnsym, -⟩ := hfreq
  obtain ⟨-, hnodes, -⟩ := htree hv
  rw [DecoderInTree, CursorInTree, innerNode_iff (htree.holds hv), hnsym, hnodes]

/-- DEC_BYTE walks from the cursor, which keeps it in the tree (R232). -/
theorem decByteBody_decoderInTree {byte : Byte} {nb : BitVec 4} {s t : State} (hfreq : FreqConsistent s)
    (htree : TreeIsBuilt s) (hv : s.treeValid = true) (hm : s.mode = .dec) (hs : DecoderInTree s)
    (h : decByteBody byte nb s = .ok t) : DecoderInTree t := by
  obtain ⟨-, cur, es, hwalk, -, ht⟩ := decByteBody_ok h
  rw [State.emitAll_eq] at ht
  subst ht
  obtain ⟨hroot, -⟩ := htree hv
  have hcur := (decoderInTree_iff hfreq htree hv).mp hs hm
  have hend := walkBits_keeps (fun _ _ _ _ => CursorInTree.treeStep (htree.holds hv) hroot) hcur hwalk
  exact (decoderInTree_iff (s := { s with cursor := cur }) hfreq htree hv).mpr fun _ => hend

/-- Every command body keeps the cursor in the tree: one that changes the tree finds MODE = IDLE (R71). -/
theorem innerBody_decoderInTree {i : Instr} {s t : State} (hfreq : FreqConsistent s) (hphase : PhaseOrdered s)
    (htree : TreeIsBuilt s) (hs : DecoderInTree s) (hp : precondition i s = true) (h : innerBody i s = .ok t) :
    DecoderInTree t := by
  have hframe := innerBody_eq_commandFrame h
  have hidle (hv : s.treeValid = false) (hmode : t.mode = s.mode) : DecoderInTree t := by
    rw [hphase.idle hv] at hmode
    exact fun hdec => by simp [hmode] at hdec
  cases i with
  | nop | reset | gen | encSym => rw [hframe]; exact hs
  | freqClr | freqAdd | freqSet | build => exact hidle (by simpa [precondition] using hp) (by rw [hframe]; rfl)
  | encStart => rw [encStartBody_ok h]; exact nofun
  | encFlush => rcases encFlushBody_ok h with ⟨-, rfl⟩ | ⟨-, -, rfl⟩ <;> exact nofun
  | decEnd => rw [decEndBody_ok h]; exact nofun
  | decStart =>
    obtain ⟨hv, -⟩ : s.treeValid = true ∧ s.mode = .idle := by simpa [precondition] using hp
    obtain ⟨hroot, -⟩ := htree hv
    rw [decStartBody_ok h]
    exact (decoderInTree_iff (s := { s with cursor := s.root, mode := .dec }) hfreq htree hv).mpr
      fun _ => cursorInTree_root (htree.holds hv) hroot
  | decByte =>
    have hm : s.mode = .dec := by simpa [precondition] using hp
    obtain ⟨-, -, hdec⟩ := hphase
    exact decByteBody_decoderInTree hfreq htree (hdec hm) hm hs h

/-- Every step keeps the cursor in the tree, as long as R70 and R71 hold. -/
theorem step_decoderInTree {s t : State} (hfreq : FreqConsistent s) (hphase : PhaseOrdered s) (htree : TreeIsBuilt s)
    (hs : DecoderInTree s) (h : step s = .next t) : DecoderInTree t := by
  cases step_effect h with
  | kept o => exact hs
  | reset o => exact nofun
  | @command _ o _ u _ pre body =>
    exact innerBody_decoderInTree (s := s.withOutside o) (t := u) hfreq hphase htree hs pre body

/-! ## The invariants together -/

/-- ResetAll clears everything the invariants speak of but OUT (R74, R301). -/
theorem inv_resetAll {s : State} (hw : Memory.wf s.out = true) (hbelow : Memory.below s.outDepth s.out = true) :
    Inv s.resetAll where
  freq := freqConsistent_resetAll s
  phase := phaseOrdered_resetAll s
  tree := treeIsBuilt_of_not_treeValid rfl
  codes := codesAreGenerated_of_not_codeValid rfl
  enc := encoderInStep_resetAll s
  dec := nofun
  out := outputBounded_resetAll hw hbelow
  errors := by simp [ErrorsConsistent]
  latch := nofun

/-- Settles O54: the power-on state is its own ResetAll. -/
theorem resetMeetsTheInvariants : Obligations.ResetMeetsTheInvariants :=
  ⟨inv_resetAll (s := State.reset) rfl rfl, fun _ => inv_resetAll⟩

/-- Settles O60: each invariant is kept, the tree, the codes and the cursor with the help of R70 and R71. -/
theorem everyStepKeepsTheInvariants : Obligations.EveryStepKeepsTheInvariants := by
  intro s t hs h
  obtain ⟨htree, hcodes⟩ := treeAndCodesKept s t hs.phase hs.tree hs.codes h
  obtain ⟨hout, henc⟩ := outputAndPackerKept s t h
  obtain ⟨herrors, hlatch⟩ := errorsAndLatchKept s t hs.errors hs.latch h
  exact {
    freq := freqConsistentKept s t hs.freq h
    phase := phaseOrderedKept s t hs.phase h
    tree := htree
    codes := hcodes
    enc := henc hs.enc
    dec := step_decoderInTree hs.freq hs.phase hs.tree hs.dec h
    out := hout hs.out
    errors := herrors
    latch := hlatch }

end Sys2Proof.Machine

/-! # The depth of the trees BUILD makes (R196): a path of d + 1 steps from a node needs the weight of a Fibonacci number -/

namespace Sys2Proof.Machine

/-! ## Depth (R190, R196) -/

/-- A leaf has no leaf below it. -/
theorem shallow_of_leaf {t : NodeTable} {i : NodeIdx} (h : (nodeAt t i).leaf = true) (d : Nat) : shallow t d i = true := by
  cases d <;> simp [shallow, h]

/-- Below an internal node stand the leaves below its children. -/
theorem shallow_succ_of_inner {t : NodeTable} {i : NodeIdx} (h : (nodeAt t i).leaf = false) (d : Nat) :
    shallow t (d + 1) i = true ↔ ∀ b, shallow t d (childOf (nodeAt t i) b) = true := by
  simp [shallow, h, childOf]

/-- A bound on the depth may be raised. -/
theorem shallow_mono {t : NodeTable} {i : NodeIdx} {d e : Nat} (h : shallow t d i = true) (hle : d ≤ e) :
    shallow t e i = true := by
  induction d generalizing e i with
  | zero => exact shallow_of_leaf h e
  | succ d ih =>
    cases hi : (nodeAt t i).leaf with
    | true => exact shallow_of_leaf hi e
    | false =>
      obtain ⟨e, rfl⟩ : ∃ e', e = e' + 1 := ⟨e - 1, by omega⟩
      rw [shallow_succ_of_inner hi] at h ⊢
      exact fun b => ih (h b) (by omega)

/-- No path to a leaf is longer than the depth. -/
theorem LeafPath.length_le {t : NodeTable} {i : NodeIdx} {p : List Bool} {d : Nat} (hp : LeafPath t i p)
    (h : shallow t d i = true) : p.length ≤ d := by
  induction p generalizing i d with
  | nil => exact Nat.zero_le d
  | cons b p ih =>
    obtain ⟨hi, hp⟩ := hp
    cases d with
    | zero => exact absurd (hi.symm.trans h) (by decide)
    | succ d => exact Nat.succ_le_succ (ih hp ((shallow_succ_of_inner hi d).mp h b))

/-! ## The weights along a path (R172, R175) -/

/-- The weight of node k, as a number. -/
def weightOf (t : NodeTable) (k : Nat) : Nat := (nodeAt t (BitVec.ofNat 9 k)).weight.toNat

/-- The index of the child of node k that a bit leads to. -/
def childIdx (t : NodeTable) (k : Nat) (b : Bool) : Nat := (childOf (nodeAt t (BitVec.ofNat 9 k)) b).toNat

theorem ofNat_childIdx (t : NodeTable) (k : Nat) (b : Bool) :
    BitVec.ofNat 9 (childIdx t k b) = childOf (nodeAt t (BitVec.ofNat 9 k)) b := ofNat_toNat_idx _

/-- The nodes below index `size` are n leaves that weigh something and, behind them, merges whose weights are exact. -/
structure MergeTree (t : NodeTable) (n size : Nat) : Prop where
  leaf   : ∀ k, k < n → (nodeAt t (BitVec.ofNat 9 k)).leaf = true ∧ 1 ≤ weightOf t k
  merged : ∀ k, n ≤ k → k < size → MergedAt t n k
  exact  : ∀ k, n ≤ k → k < size → weightOf t k = weightOf t (childIdx t k false) + weightOf t (childIdx t k true)

/-- The children of a merged node are in the collection it is made from. -/
theorem MergedAt.collected_childIdx {t : NodeTable} {n k : Nat} (h : MergedAt t n k) (b : Bool) :
    Collected t n k (childIdx t k b) := by
  obtain ⟨hl, hr, -⟩ := h.smallest
  cases b with
  | false => exact hl
  | true => exact hr

/-- A node in the collection of a later node is no child of an earlier one. -/
theorem Collected.ne_childIdx {t : NodeTable} {n k c i : Nat} (h : Collected t n k i) (hc : n ≤ c) (hk : c < k) (b : Bool) :
    i ≠ childIdx t c b := by
  obtain ⟨hl, hr⟩ := h.2 c hc hk
  cases b with
  | false => exact hl.symm
  | true => exact hr.symm

theorem NodeBefore.weightOf_le {t : NodeTable} {i j : Nat} (h : NodeBefore t i j) : weightOf t i ≤ weightOf t j := by
  rcases h with h | ⟨h, -⟩
  · exact h.le
  · exact (congrArg BitVec.toNat h).le

/-- A node left in the collection weighs at least as much as the two that are taken (R172). -/
theorem MergedAt.weightOf_childIdx_le {t : NodeTable} {n k i : Nat} (h : MergedAt t n k) (hi : Collected t n k i)
    (hne : ∀ b, i ≠ childIdx t k b) (b : Bool) : weightOf t (childIdx t k b) ≤ weightOf t i := by
  obtain ⟨-, -, -, hleft, hright⟩ := h.smallest
  cases b with
  | false => exact (hleft i hi (hne false)).weightOf_le
  | true => exact (hright i hi (hne false) (hne true)).weightOf_le

section
variable {t : NodeTable} {n size : Nat} (h : MergeTree t n size)
include h

/-- A merged node weighs the sum of its children, whichever comes first. -/
theorem MergeTree.weightOf_eq {k : Nat} (hn : n ≤ k) (hk : k < size) (b : Bool) :
    weightOf t k = weightOf t (childIdx t k b) + weightOf t (childIdx t k !b) := by
  have hsum := h.exact k hn hk
  cases b with
  | false => exact hsum
  | true => exact hsum.trans (Nat.add_comm _ _)

/-- Every node weighs something: the leaves do. -/
theorem MergeTree.weightOf_pos {k : Nat} (hk : k < size) : 1 ≤ weightOf t k := by
  induction k using Nat.strong_induction_on with
  | _ k ih =>
    rcases Nat.lt_or_ge k n with hn | hn
    · exact (h.leaf k hn).2
    · have hchild : childIdx t k false < k := (h.merged k hn hk).childOf_lt false
      have hpos := ih _ hchild (hchild.trans hk)
      have hsum := h.weightOf_eq hn hk false
      omega

/-- A node i that is in a collection after the merge c weighs at least as much as each child of c. Either i was there at c
and was not taken, or it is c, or it was made after c from nodes of which this holds. -/
theorem MergeTree.weightOf_childIdx_le {k c i : Nat} (hi : Collected t n k i) (hc : n ≤ c) (hck : c < k) (hk : k ≤ size)
    (b : Bool) : weightOf t (childIdx t c b) ≤ weightOf t i := by
  induction i using Nat.strong_induction_on generalizing k with
  | _ i ih =>
    have hik := hi.1
    rcases lt_trichotomy i c with hlt | rfl | hgt
    · have hatMerge : Collected t n c i := ⟨hlt, fun j hj hjc => hi.2 j hj (hjc.trans hck)⟩
      exact (h.merged c hc (by omega)).weightOf_childIdx_le hatMerge (hi.ne_childIdx hc hck) b
    · have hsum := h.weightOf_eq hc (by omega) b
      omega
    · have hin : n ≤ i := by omega
      have hmerged := h.merged i hin (by omega)
      have hchild := ih (childIdx t i false) (hmerged.childOf_lt false) (hmerged.collected_childIdx false) hgt (by omega)
      have hsum := h.weightOf_eq hin (by omega) false
      omega

/-- A node with other nodes below it is a merged one. -/
theorem MergeTree.le_of_not_shallow {d k : Nat} (hdeep : shallow t d (BitVec.ofNat 9 k) = false) : n ≤ k := by
  by_contra hn
  obtain ⟨hleaf, -⟩ := h.leaf k (Nat.lt_of_not_le hn)
  exact absurd ((shallow_of_leaf hleaf d).symm.trans hdeep) (by decide)

/-- A node with a path of more than d steps below it weighs at least F(d + 3), and one of its children at least F(d + 2). Its
deep child c weighs F(d + 2) and has a child of weight F(d + 1); the sibling of c is in a collection after c, so it weighs
F(d + 1) too. -/
theorem MergeTree.fib_le_weightOf {d k : Nat} (hk : k < size) (hdeep : shallow t d (BitVec.ofNat 9 k) = false) :
    Nat.fib (d + 3) ≤ weightOf t k ∧ ∃ b, Nat.fib (d + 2) ≤ weightOf t (childIdx t k b) := by
  have hn := h.le_of_not_shallow hdeep
  have hmerged := h.merged k hn hk
  have hlt (b : Bool) : childIdx t k b < k := hmerged.childOf_lt b
  induction d generalizing k with
  | zero =>
    have hleft := h.weightOf_pos ((hlt false).trans hk)
    have hright := h.weightOf_pos ((hlt true).trans hk)
    have hsum := h.exact k hn hk
    exact ⟨show 2 ≤ weightOf t k by omega, false, hleft⟩
  | succ d ih =>
    obtain ⟨b, hchild⟩ : ∃ b, shallow t d (BitVec.ofNat 9 (childIdx t k b)) = false := by
      by_contra hall
      push Not at hall
      refine absurd (((shallow_succ_of_inner hmerged.leaf d).mpr fun b => ?_).symm.trans hdeep) (by decide)
      rw [← ofNat_childIdx]
      exact Bool.eq_true_of_not_eq_false (hall b)
    have hcn := h.le_of_not_shallow hchild
    have hck := (hlt b).trans hk
    have hcm := h.merged _ hcn hck
    obtain ⟨hdeepChild, b', hgrandchild⟩ := ih hck hchild hcn hcm hcm.childOf_lt
    have hsibling := h.weightOf_childIdx_le (hmerged.collected_childIdx !b) hcn (hlt b) hk.le b'
    refine ⟨?_, b, hdeepChild⟩
    calc Nat.fib (d + 1 + 3) = Nat.fib (d + 2) + Nat.fib (d + 3) := Nat.fib_add_two
      _ ≤ weightOf t (childIdx t k !b) + weightOf t (childIdx t k b) := by omega
      _ = weightOf t k := by rw [h.weightOf_eq hn hk b, Nat.add_comm]

/-- A node whose weight fits 32 bits has no path of more than 45 steps below it: F(48) is past 2^32 (R196). -/
theorem MergeTree.shallow_45 {k : Nat} (hk : k < size) : shallow t 45 (BitVec.ofNat 9 k) = true := by
  by_contra hdeep
  have hweight : Nat.fib 48 ≤ weightOf t k := (h.fib_le_weightOf hk (Bool.eq_false_of_not_eq_true hdeep)).1
  have hfib : Nat.fib 48 = 4807526976 := by norm_num [Nat.fib]
  have hfits : weightOf t k < 2 ^ 32 := BitVec.isLt _
  omega

end

/-- The tree BUILD makes (R171, R172, R175). -/
theorem exec_build_mergeTree {s t : State} (hfreq : FreqConsistent s) (hv : s.treeValid = false)
    (h : 1 ≤ presentSymbols s.freq) (hexec : exec .build s = .next t) :
    MergeTree t.node (presentSymbols s.freq) t.nnodes.toNat ∧ t.root ≠ NIL ∧ t.root.toNat < t.nnodes.toNat := by
  obtain ⟨t1, hexec1, -, hleaf, -⟩ := buildPlacesLeavesInOrder s hv
  cases hexec.symm.trans hexec1
  obtain ⟨t2, hexec2, -, hnnodes, hroot, hmerged⟩ := exec_build_tree hv h
  cases hexec.symm.trans hexec2
  obtain ⟨-, hexact⟩ := weightsNeverWrap s t hfreq hv h hexec
  have hn := presentSymbols_le s.freq
  refine ⟨⟨fun k hk => ?leaf, hmerged, fun k hk hlt => ?exact⟩, fun hnil => ?nil, by omega⟩
  case leaf =>
    obtain ⟨sym, hsym, hnode⟩ := hleaf k hk
    change nodeAt t.node (BitVec.ofNat 9 k) = _ at hnode
    rw [weightOf, hnode]
    exact ⟨rfl, Nat.pos_of_ne_zero fun hzero => hsym (BitVec.eq_of_toNat_eq hzero)⟩
  case exact =>
    rw [weightOf, weightOf, weightOf, ofNat_childIdx, ofNat_childIdx]
    exact hexact k hk hlt
  case nil =>
    have hNIL : t.root.toNat = 511 := congrArg BitVec.toNat hnil
    omega

/-! ## The codes of a shallow tree (R190, R192) -/

/-- Over a tree of depth d, at least 1 and within CODE_STORE, GEN makes codes of at most d bits (R190). -/
theorem genCodes_of_shallow {s : State} {d : Nat} (hroot : s.root ≠ NIL) (hpos : 1 ≤ d) (hd : d ≤ Config.codeStore)
    (h : shallow s.node d s.root = true) : ∃ c m, genCodes s = .ok (c, m) ∧ m ≤ d := by
  cases hi : (s.nodeAt s.root).leaf with
  | true => exact ⟨_, 1, genCodes_leaf hroot hi, hpos⟩
  | false =>
    obtain ⟨hok, -⟩ := walk_ok_or_codelen (t := s.node) (i := s.root) (v := 0) (Nat.zero_add Config.codeStore)
      (freshCodes, 0)
    obtain ⟨⟨c, m⟩, hwalk⟩ := hok (shallow_mono h hd)
    obtain ⟨p, hp, rfl⟩ := (walk_walked (pre := []) hwalk).longest
    exact ⟨c, _, (genCodes_inner hroot hi).trans hwalk, by simpa using hp.length_le h⟩

/-- No entry is longer than the longest code. -/
theorem HoldsTreeCodes.len_le {s : State} {m : Nat} (h : HoldsTreeCodes s m) (sym : Byte) :
    (s.codeAt sym).len.toNat ≤ m := by
  cases hv : (s.codeAt sym).valid with
  | true => exact (h.len_bounds hv).2
  | false =>
    rw [h.eq_blank hv]
    exact Nat.zero_le m

/-- Settles O28: a path of more than 45 steps from ROOT would make ROOT weigh F(48), which no word holds. -/
theorem treesAreAtMost45Deep : Obligations.TreesAreAtMost45Deep := by
  intro s t hfreq hv h hexec
  obtain ⟨htree, hroot, hlt⟩ := exec_build_mergeTree hfreq hv h hexec
  have hshallow := htree.shallow_45 hlt
  rw [ofNat_toNat_idx] at hshallow
  refine ⟨hshallow, fun hc => ?_⟩
  obtain ⟨c, m, hgen, hm⟩ := genCodes_of_shallow hroot (by decide) (by decide) hshallow
  have hcodes := holdsTreeCodes_of_genCodes (s := { t with code := c }) hgen
  obtain ⟨hvalid, herr, herrcode⟩ : t.codeValid = s.codeValid ∧ t.err = s.err ∧ t.errcode = s.errcode := by
    cases hexec.symm.trans (exec_build_eq hv)
    exact ⟨rfl, rfl, rfl⟩
  exact ⟨_, exec_gen_ok (exec_build_treeValid hexec) (hvalid.trans hc) hgen, rfl, herr, herrcode,
    (Nat.mod_le _ _).trans hm, fun sym => (hcodes.len_le sym).trans hm⟩

end Sys2Proof.Machine
